-- ==== Sys2Proof/Word.lean ====
section
/-! DEFINITION. The value types of 00_scope.md rule R11, the records of 10_state.md rules R27 and R28, and
the command port of rules R24 and R26. Bit 0 of every vector is its least significant bit (R8). -/

namespace Sys2Proof

/-- R11: 8 bits, unsigned unless a rule says otherwise. -/
abbrev Byte := BitVec 8

/-- R69: two's complement Q33.32 seconds after the Unix epoch. -/
abbrev Instant := BitVec 65

/-- R66: unsigned Q32.32 seconds after the protocol epoch; seconds in bits 63:32, fraction in 31:0. -/
abbrev WireTs := BitVec 64

/-- R70: two's complement Q45.32 milliseconds. -/
abbrev Millis := BitVec 77

/-- R40, R48: the packet buffer, an array `B[0..47]` of bytes, `B[0]` first on the wire. -/
abbrev Buf48 := Vector Byte 48

/-- R28: an instant that may be absent. The `instant` part of an absent operand is ignored; on a result it
is driven even when absent. -/
structure OptInstant where
  present : Bool
  instant : Instant
  deriving DecidableEq, Repr

/-- R27: the decoded packet, eleven fields in wire order. -/
structure Packet where
  hdr       : Byte
  stratum   : Byte
  poll      : Byte
  precision : Byte
  rootDelay : BitVec 32
  rootDisp  : BitVec 32
  refId     : BitVec 32
  refTs     : OptInstant
  orgTs     : OptInstant
  recTs     : OptInstant
  xmtTs     : OptInstant
  deriving DecidableEq, Repr

/-- R28: two optional instants are equal when both are absent or both are present at one instant. -/
def OptInstant.same (a b : OptInstant) : Bool :=
  a.present == b.present && (!a.present || a.instant == b.instant)

/-- R28: equality of packets: seven plain fields bit for bit, four timestamps by `OptInstant.same`. -/
def Packet.same (p q : Packet) : Bool :=
  p.hdr == q.hdr && p.stratum == q.stratum && p.poll == q.poll && p.precision == q.precision &&
  p.rootDelay == q.rootDelay && p.rootDisp == q.rootDisp && p.refId == q.refId &&
  p.refTs.same q.refTs && p.orgTs.same q.orgTs && p.recTs.same q.recTs && p.xmtTs.same q.xmtTs

/-- R24, R26: the values on `cmd_op` and on every operand port at one rising edge of `clk`. One port per
operand name of R26; which ports a command reads is the operation's business (`Sys2Proof.decode`). -/
structure CmdPorts where
  op      : BitVec 4
  liRaw   : Byte
  vnRaw   : Byte
  modeRaw : Byte
  hdr     : Byte
  t       : OptInstant
  sec     : BitVec 32
  frac    : BitVec 32
  pkt     : Packet
  len     : BitVec 16
  data    : Buf48
  t1      : OptInstant
  t2      : OptInstant
  t3      : OptInstant
  t4      : OptInstant
  now     : Instant
  deriving DecidableEq, Repr

end Sys2Proof
end

