-- ==== Sys2Proof/Config.lean ====
section
/-! DEFINITION. The constants of 00_scope.md rules R6 and R7, and the one parameter the spec leaves open. -/

namespace Sys2Proof

/-- R6: the Unix-to-protocol epoch offset, in seconds. -/
abbrev Config.epochOffset : Int := 2208988800

/-- R6, R7: `EPOCH_OFFSET_RAW`, the epoch offset in instant units of 2^-32 s (`INSTANT_FRAC` = 32). -/
abbrev Config.epochOffsetRaw : Int := Config.epochOffset * 2 ^ 32

/-- R103 (c): the Unix second at which the wire's seconds counter wraps, 2^32 s after the protocol epoch. -/
abbrev Config.wrapSecond : Int := 2085978496

/-- R7: `PKT_LEN`, bytes in a packet on the wire. -/
abbrev Config.pktLen : Nat := 48

/-- R73 (a): the largest leap indicator, version and mode that PACK and MKREQ accept. -/
abbrev Config.liMax : Nat := 3
abbrev Config.vnMax : Nat := 7
abbrev Config.modeMax : Nat := 7

/-- R142: raw millisecond units per raw second unit. -/
abbrev Config.msPerSecond : Int := 1000

/-- R143: half of `msPerSecond`; the halving and the scaling are one multiplication. -/
abbrev Config.halfMsPerSecond : Int := 500

/-- R210, D18, U8: `RESP_LATENCY`, a FREE VALUE. How many further edges the block spends on an accepted
command before the edge at which it answers, one more than this being the latency in cycles (R29: a finite
number, at least one). It may differ between commands and operations, so it is applied to the count of
commands accepted before and to the command itself. No body: nothing can be proved about its value
(notes/assumptions/1.md). -/
opaque Config.respWait : Nat → CmdPorts → Nat

end Sys2Proof
end

