-- ==== Sys2Proof/Syntax.lean ====
section
/-! DEFINITION. The commands of 30_encoding.md rule R61, one constructor per row of the operation table, each
with the operand ports 10_state.md rule R26 lists for it. -/

namespace Sys2Proof

/-- A command as a value of a sum type with one constructor per operation (R26). The seven reserved codes of
R62 take no operands. -/
inductive Instr where
  | pack (liRaw vnRaw modeRaw : Byte)
  | unpack (hdr : Byte)
  | towire (t : OptInstant)
  | fromwire (sec frac : BitVec 32)
  | encode (pkt : Packet)
  | decode (len : BitVec 16) (data : Buf48)
  | delay (t1 t2 t3 t4 : OptInstant)
  | offset (t1 t2 t3 t4 : OptInstant)
  | mkreq (liRaw vnRaw modeRaw : Byte) (now : Instant)
  | reserved9
  | reserved10
  | reserved11
  | reserved12
  | reserved13
  | reserved14
  | reserved15
  deriving DecidableEq, Repr

end Sys2Proof
end

