-- ==== Sys2Proof/WellFormed.lean ====
section
/-! DEFINITION. The well-formedness checks. A command's operands carry their port's width in their types and
the host may present any code with any operand values (60_exceptions.md rule R175), so every command is
well-formed; what the spec does single out among values are the instants inside the wire range (rule R103 (c))
and the representable packets (rule R130), checked here. -/

namespace Sys2Proof

/-- R175, R64, R69: no command is ill-formed. One line per constructor, so that a new one is considered. -/
def Instr.wellFormed (i : Instr) : Bool :=
  match i with
  | .pack _ _ _ => true
  | .unpack _ => true
  | .towire _ => true
  | .fromwire _ _ => true
  | .encode _ => true
  | .decode _ _ => true
  | .delay _ _ _ _ => true
  | .offset _ _ _ _ => true
  | .mkreq _ _ _ _ => true
  | .reserved9 => true
  | .reserved10 => true
  | .reserved11 => true
  | .reserved12 => true
  | .reserved13 => true
  | .reserved14 => true
  | .reserved15 => true

/-- R103 (c): from 1900-01-01T00:00:00 up to but not including 2^32 s later. -/
def Instant.inWireRange (t : Instant) : Bool :=
  decide (-Config.epochOffsetRaw ≤ t.toInt) && decide (t.toInt < Config.wrapSecond * 2 ^ 32)

/-- R130: absent, or present strictly after the protocol epoch and before the wrap. -/
def OptInstant.representable (t : OptInstant) : Bool :=
  !t.present ||
    (decide (-Config.epochOffsetRaw < t.instant.toInt) && decide (t.instant.toInt < Config.wrapSecond * 2 ^ 32))

/-- R130: each of the four timestamps is representable; the seven plain fields are unrestricted. -/
def Packet.representable (p : Packet) : Bool :=
  p.refTs.representable && p.orgTs.representable && p.recTs.representable && p.xmtTs.representable

end Sys2Proof
end

