-- ==== Sys2Proof/Decode.lean ====
section
/-! DEFINITION. The decoder, from a sample of the command port to a command (30_encoding.md rules R60 to R62),
and after it the encoder. Every one of the sixteen codes selects a row of the operation table, the reserved
ones included, so there is no sample to reject. -/

namespace Sys2Proof

/-- R61, R62: the operation select code, its four bits written as in R61's column "binary" (bit 3 first), with
the operand ports R26 lists for the operation. Ports the operation does not list are not looked at (R24). The last
arm is the one code left, 1111. -/
def decode (c : CmdPorts) : Instr :=
  match c.op with
  | 0b0000#4 => .pack c.liRaw c.vnRaw c.modeRaw
  | 0b0001#4 => .unpack c.hdr
  | 0b0010#4 => .towire c.t
  | 0b0011#4 => .fromwire c.sec c.frac
  | 0b0100#4 => .encode c.pkt
  | 0b0101#4 => .decode c.len c.data
  | 0b0110#4 => .delay c.t1 c.t2 c.t3 c.t4
  | 0b0111#4 => .offset c.t1 c.t2 c.t3 c.t4
  | 0b1000#4 => .mkreq c.liRaw c.vnRaw c.modeRaw c.now
  | 0b1001#4 => .reserved9
  | 0b1010#4 => .reserved10
  | 0b1011#4 => .reserved11
  | 0b1100#4 => .reserved12
  | 0b1101#4 => .reserved13
  | 0b1110#4 => .reserved14
  | _ => .reserved15

/-- An absent timestamp with its ignored part zero. -/
def OptInstant.none : OptInstant := { present := false, instant := 0 }

/-- R74: the `Packet` with every plain field 0 and every timestamp absent. -/
def Packet.blank : Packet :=
  { hdr := 0, stratum := 0, poll := 0, precision := 0, rootDelay := 0, rootDisp := 0, refId := 0,
    refTs := .none, orgTs := .none, recTs := .none, xmtTs := .none }

/-- Forty-eight zero bytes. -/
def Buf48.zero : Buf48 := Vector.replicate 48 0

/-- A command port with every line low: what the encoder drives on the ports a command does not list, whose
values cannot matter (R24; notes/assumptions/5.md). -/
def CmdPorts.blank : CmdPorts :=
  { op := 0, liRaw := 0, vnRaw := 0, modeRaw := 0, hdr := 0, t := .none, sec := 0, frac := 0, pkt := .blank,
    len := 0, data := .zero, t1 := .none, t2 := .none, t3 := .none, t4 := .none, now := 0 }

/-- R61: the operation select code of a command. -/
def Instr.code (i : Instr) : BitVec 4 :=
  match i with
  | .pack _ _ _ => 0
  | .unpack _ => 1
  | .towire _ => 2
  | .fromwire _ _ => 3
  | .encode _ => 4
  | .decode _ _ => 5
  | .delay _ _ _ _ => 6
  | .offset _ _ _ _ => 7
  | .mkreq _ _ _ _ => 8
  | .reserved9 => 9
  | .reserved10 => 10
  | .reserved11 => 11
  | .reserved12 => 12
  | .reserved13 => 13
  | .reserved14 => 14
  | .reserved15 => 15

/-- R60, R26: the port values that present a command: its code on `cmd_op`, its operands on the ports it
lists, every other port low. -/
def encode (i : Instr) : CmdPorts :=
  match i with
  | .pack l v m => { CmdPorts.blank with op := i.code, liRaw := l, vnRaw := v, modeRaw := m }
  | .unpack h => { CmdPorts.blank with op := i.code, hdr := h }
  | .towire t => { CmdPorts.blank with op := i.code, t := t }
  | .fromwire s f => { CmdPorts.blank with op := i.code, sec := s, frac := f }
  | .encode p => { CmdPorts.blank with op := i.code, pkt := p }
  | .decode n d => { CmdPorts.blank with op := i.code, len := n, data := d }
  | .delay a b c d => { CmdPorts.blank with op := i.code, t1 := a, t2 := b, t3 := c, t4 := d }
  | .offset a b c d => { CmdPorts.blank with op := i.code, t1 := a, t2 := b, t3 := c, t4 := d }
  | .mkreq l v m n => { CmdPorts.blank with op := i.code, liRaw := l, vnRaw := v, modeRaw := m, now := n }
  | .reserved9 => { CmdPorts.blank with op := i.code }
  | .reserved10 => { CmdPorts.blank with op := i.code }
  | .reserved11 => { CmdPorts.blank with op := i.code }
  | .reserved12 => { CmdPorts.blank with op := i.code }
  | .reserved13 => { CmdPorts.blank with op := i.code }
  | .reserved14 => { CmdPorts.blank with op := i.code }
  | .reserved15 => { CmdPorts.blank with op := i.code }

/-- The command port that a word of the operation table stands for. The table gives a row four bits, `cmd_op`
in bits 3:0, and its operands no bits, so every operand port is low (notes/assumptions/5.md). -/
def CmdPorts.ofTableWord (nbits w : Nat) : CmdPorts :=
  { CmdPorts.blank with op := BitVec.ofNat 4 (w % 2 ^ nbits) }

/-- The command the decoder reads from a word of the operation table. -/
def decodeTableWord (nbits w : Nat) : Option Instr :=
  some (decode (CmdPorts.ofTableWord nbits w))

end Sys2Proof
end

