-- ==== Sys2Proof/Machine/State.lean ====
section
/-! DEFINITION. The state of the block and of the host's wires into it. The block's own state is the in-flight
command (10_state.md rule R29) and nothing else (rules R20 to R23, R33). -/

namespace Sys2Proof.Machine

/-- R161, R72: the four errors a response can carry. -/
inductive OpError where
  /-- Code 1: a raw header operand of PACK or MKREQ out of range (R162). -/
  | invalidArgument
  /-- Code 2: DECODE of fewer than 48 bytes (R163). -/
  | formatError
  /-- Code 3: DELAY or OFFSET of an absent timestamp (R164). -/
  | missingTimestamp
  /-- Code 4: a reserved operation code (R62, R167). -/
  | illegalOp
  deriving DecidableEq, Repr

/-- R26: the result ports of a response whose status is OK, one constructor per operation and one argument per
result port of that operation. -/
inductive Result where
  | pack (hdr : Byte)
  | unpack (li : BitVec 2) (vn mode : BitVec 3)
  | towire (sec frac : BitVec 32)
  | fromwire (t : OptInstant)
  | encode (data : Buf48)
  | decode (pkt : Packet)
  | delay (ms : Millis)
  | offset (ms : Millis)
  | mkreq (data : Buf48)
  deriving DecidableEq, Repr

/-- R25, R166: a response is a result with status OK, or one error with no result at all. -/
inductive Response where
  | ok (r : Result)
  | error (e : OpError)
  deriving DecidableEq, Repr

/-- R24, R25: the level on each wire the host drives, as sampled at one rising edge of `clk`. -/
structure Pins where
  rst      : Bool
  cmdValid : Bool
  cmd      : CmdPorts
  rspReady : Bool
  deriving DecidableEq, Repr

/-- Every wire low: no reset, no command presented, no response taken. -/
def Pins.quiet : Pins := { rst := false, cmdValid := false, cmd := .blank, rspReady := false }

/-- The state. `latch` and `rsp` are the block's (R29); `wait` and `accepted` are the model's own, for the
latency the spec leaves open (notes/assumptions/1.md and 2.md); `inputs` is the host's (notes/assumptions/3.md). -/
structure State where
  /-- R29: `busy`, and when it is 1 the latched operation select and operand values of the accepted command,
  kept until its response is delivered. -/
  latch    : Option CmdPorts
  /-- R29: `rsp_valid`, and when it is 1 the response on `rsp_status` and the result ports. -/
  rsp      : Option Response
  /-- How many further edges pass before the edge at which the latched command is answered. -/
  wait     : Nat
  /-- How many commands were accepted; the argument of the free value `Config.respWait`. -/
  accepted : Nat
  /-- What the host drives at the coming rising edges, the next edge first; all wires low after the last. -/
  inputs   : List Pins
  deriving DecidableEq, Repr

/-- The block has no fault: every operation is total (R12), nothing traps (R160), no access can be misaligned
or out of range (R43, R45). No step of the model stops with a fault, which is why there is no constructor. -/
inductive Fault where
  deriving DecidableEq, Repr

/-- Why the model gives no meaning. -/
inductive Refusal where
  /-- An arm of `exec` without a meaning. Raised by none: every arm has one. Safe. -/
  | notModelled (mnemonic : String)
  deriving DecidableEq, Repr

/-- R30, R190: the idle state, no command in flight and no response pending. That is the whole reset state of
the block; the counters are at 0 and the host drives nothing (notes/assumptions/2.md and 3.md). -/
def State.reset : State := { latch := none, rsp := none, wait := 0, accepted := 0, inputs := [] }

end Sys2Proof.Machine
end

