-- ==== Sys2Proof/Machine/Ports.lean ====
section
/-! DEFINITION. What stands on the wires of the two channels (10_state.md rules R24, R25, R29), read off the
state. An output that carries no meaning has no value here (60_exceptions.md rule R166, U4). -/

namespace Sys2Proof.Machine

/-- The host's wires at the coming rising edge. -/
def State.pins (s : State) : Pins := s.inputs.headD .quiet

/-- R29: one bit, a command is in flight. -/
def State.busy (s : State) : Bool := s.latch.isSome

/-- R29: `cmd_ready = 1` exactly when `busy = 0` and `rst = 0`. -/
def State.cmdReady (s : State) : Bool := !s.busy && !s.pins.rst

/-- R25: a response is presented. -/
def State.rspValid (s : State) : Bool := s.rsp.isSome

/-- R24: the coming edge accepts a command. -/
def State.accepts (s : State) : Bool := !s.pins.rst && s.pins.cmdValid && s.cmdReady

/-- R25: the coming edge delivers the response. -/
def State.delivers (s : State) : Bool := !s.pins.rst && s.rspValid && s.pins.rspReady

/-- The result of a response, none when it is an error (R166). -/
def Response.result (r : Response) : Option Result :=
  match r with
  | .ok x => some x
  | .error _ => none

/-- The result a presented response carries. -/
def State.result (s : State) : Option Result := s.rsp.bind Response.result

/-- R26: the port `hdr`, listed for PACK. -/
def Result.hdrPort (x : Result) : Option Byte :=
  match x with
  | .pack h => some h
  | _ => none

/-- R26: the port `li`, listed for UNPACK. -/
def Result.liPort (x : Result) : Option (BitVec 2) :=
  match x with
  | .unpack l _ _ => some l
  | _ => none

/-- R26: the port `vn`, listed for UNPACK. -/
def Result.vnPort (x : Result) : Option (BitVec 3) :=
  match x with
  | .unpack _ v _ => some v
  | _ => none

/-- R26: the port `mode`, listed for UNPACK. -/
def Result.modePort (x : Result) : Option (BitVec 3) :=
  match x with
  | .unpack _ _ m => some m
  | _ => none

/-- R26: the port `sec`, listed for TOWIRE. -/
def Result.secPort (x : Result) : Option (BitVec 32) :=
  match x with
  | .towire s _ => some s
  | _ => none

/-- R26: the port `frac`, listed for TOWIRE. -/
def Result.fracPort (x : Result) : Option (BitVec 32) :=
  match x with
  | .towire _ f => some f
  | _ => none

/-- R26: the port `t`, listed for FROMWIRE. -/
def Result.tPort (x : Result) : Option OptInstant :=
  match x with
  | .fromwire t => some t
  | _ => none

/-- R26: the port `data`, listed for ENCODE and MKREQ. -/
def Result.dataPort (x : Result) : Option Buf48 :=
  match x with
  | .encode d => some d
  | .mkreq d => some d
  | _ => none

/-- R26: the port `pkt`, listed for DECODE. -/
def Result.pktPort (x : Result) : Option Packet :=
  match x with
  | .decode p => some p
  | _ => none

/-- R26: the port `ms`, listed for DELAY and OFFSET. -/
def Result.msPort (x : Result) : Option Millis :=
  match x with
  | .delay m => some m
  | .offset m => some m
  | _ => none

end Sys2Proof.Machine
end

