-- ==== Sys2Proof/Machine/Flags.lean ====
section
/-! DEFINITION. The block has no flags or condition codes (10_state.md rule R22). The only outcome indication is
the status code of a command's own response (30_encoding.md rule R72), computed here. -/

namespace Sys2Proof.Machine

/-- R72: the code of an error. Codes 5 to 7 are never produced. -/
def OpError.code (e : OpError) : BitVec 3 :=
  match e with
  | .invalidArgument => 1
  | .formatError => 2
  | .missingTimestamp => 3
  | .illegalOp => 4

/-- R72: `OK` is 0. -/
def Response.status (r : Response) : BitVec 3 :=
  match r with
  | .ok _ => 0
  | .error e => e.code

/-- R30: `rsp_status` carries no meaning while `rsp_valid = 0`. -/
def State.rspStatus (s : State) : Option (BitVec 3) := s.rsp.map Response.status

end Sys2Proof.Machine
end

