-- ==== Sys2Proof/Machine/Operands.lean ====
section
/-! DEFINITION. The operand forms and the arithmetic over them: raw header operands and header fields
(30_encoding.md rules R63, R73), instants and wire timestamps (rules R66, R69, R71 and 42_packet_codec.md rule
R120), and the calculator's signed arithmetic (43_offset_calculator.md rules R141 to R143). -/

namespace Sys2Proof.Machine

/-! ### The header byte -/

/-- R73 (a): the three independent range tests of the raw header operands. -/
def headerInRange (li vn mode : Byte) : Bool :=
  decide (li.toNat ≤ Config.liMax) && decide (vn.toNat ≤ Config.vnMax) && decide (mode.toNat ≤ Config.modeMax)

/-- R91: `li_raw[1:0] ‖ vn_raw[2:0] ‖ mode_raw[2:0]`. -/
def packHeader (li vn mode : Byte) : Byte :=
  li.extractLsb' 0 2 ++ (vn.extractLsb' 0 3 ++ mode.extractLsb' 0 3)

/-- R63: bits 7:6. -/
def headerLi (h : Byte) : BitVec 2 := h.extractLsb' 6 2

/-- R63: bits 5:3. -/
def headerVn (h : Byte) : BitVec 3 := h.extractLsb' 3 3

/-- R63: bits 2:0. -/
def headerMode (h : Byte) : BitVec 3 := h.extractLsb' 0 3

/-! ### Instants and wire timestamps -/

/-- R120, R101: `ToWire64`. The absent sentinel is all zero whatever the instant part holds; a present instant
is moved to the protocol epoch and reduced modulo 2^64, which is R103 (b)'s wrap of the seconds. -/
def toWire64 (t : OptInstant) : WireTs :=
  if t.present then BitVec.ofInt 64 (t.instant.toInt + Config.epochOffsetRaw) else 0

/-- R120, R104: `FromWire64`. The all-zero field is reported absent and its instant part is driven all the same
(R28). -/
def fromWire64 (w : WireTs) : OptInstant :=
  { present := w != 0, instant := BitVec.ofInt 65 ((w.toNat : Int) - Config.epochOffsetRaw) }

/-- R66: the seconds, bits 63:32. -/
def wireSec (w : WireTs) : BitVec 32 := w.extractLsb' 32 32

/-- R66: the fraction, bits 31:0. -/
def wireFrac (w : WireTs) : BitVec 32 := w.extractLsb' 0 32

/-- R66: seconds in the more significant half. -/
def wireOf (sec frac : BitVec 32) : WireTs := sec ++ frac

/-! ### The calculator -/

/-- R141: the test is on the `present` bits alone. -/
def allPresent (t1 t2 t3 t4 : OptInstant) : Bool := t1.present && t2.present && t3.present && t4.present

/-- R142: `(T4 - T1) - (T3 - T2)` on unbounded integers, scaled to milliseconds. -/
def delayMillis (t1 t2 t3 t4 : Instant) : Millis :=
  BitVec.ofInt 77 (((t4.toInt - t1.toInt) - (t3.toInt - t2.toInt)) * Config.msPerSecond)

/-- R143: `(T2 - T1) + (T3 - T4)` on unbounded integers, halved and scaled to milliseconds in one product. -/
def offsetMillis (t1 t2 t3 t4 : Instant) : Millis :=
  BitVec.ofInt 77 (((t2.toInt - t1.toInt) + (t3.toInt - t4.toInt)) * Config.halfMsPerSecond)

end Sys2Proof.Machine
end

