-- ==== Sys2Proof/Machine/Ops.lean ====
section
/-! DEFINITION. The named operations: the two primitives over a packet buffer (20_memory.md rules R43, R44), the
ways a command can be answered (60_exceptions.md rule R166), and the block's moves at a rising edge (10_state.md
rule R29, 70_reset_and_hazards.md rule R190). -/

namespace Sys2Proof.Machine

/-! ### The packet buffer -/

/-- R43: the `n` bytes at offsets `k` to `k+n-1`, read big-endian: the byte at the lowest offset is the most
significant. -/
def memRead (b : Buf48) (k : Nat) : (n : Nat) → (h : k + n ≤ 48 := by decide) → BitVec (8 * n)
  | 0, _ => 0#0
  | n + 1, h => memRead b k n (by omega) ++ b[k + n]'(by omega)

/-- R44, its first `m` rounds: byte `i` of the field, counted from the most significant, goes to offset `k+i`. -/
def memWriteBytes (b : Buf48) (k n : Nat) (v : BitVec (8 * n)) : (m : Nat) → k + m ≤ 48 → Buf48
  | 0, _ => b
  | m + 1, h => (memWriteBytes b k n v m (by omega)).set (k + m) (v.extractLsb' (8 * (n - 1 - m)) 8) (by omega)

/-- R44: writes the `8n`-bit value `v` big-endian to offsets `k` to `k+n-1`. -/
def memWrite (b : Buf48) (k n : Nat) (v : BitVec (8 * n)) (h : k + n ≤ 48 := by decide) : Buf48 :=
  memWriteBytes b k n v n h

/-- R134: `MemWrite(j, 1, 0x00)` for each of the `n` offsets from `k`. -/
def memClear (b : Buf48) (k : Nat) : (n : Nat) → (h : k + n ≤ 48 := by decide) → Buf48
  | 0, _ => b
  | n + 1, h => memWrite (memClear b k n (by omega)) (k + n) 1 (0 : Byte) (by omega)

/-! ### Answering a command -/

/-- R25, R29: the response becomes valid. -/
def State.present (r : Response) (s : State) : State := { s with rsp := some r }

/-- R25: the command completes, status OK, with its result. -/
def respond (x : Result) (s : State) : Host.Outcome State Fault Refusal := .next (s.present (.ok x))

/-- R166: `raise`. The operation stops; its response carries the error's code and no result, and nothing else
changes. This is the block's only exception, and there is no return from it (R169): the block is idle again once
the response is delivered. -/
def raiseError (e : OpError) (s : State) : Host.Outcome State Fault Refusal := .next (s.present (.error e))

/-! ### The block's moves at a rising edge -/

/-- The edge is over: the host's next levels stand on the wires. -/
def State.advance (s : State) : State := { s with inputs := s.inputs.tail }

/-- R190, R191: `rst = 1`. The idle state; a command in flight is dropped with its response. -/
def State.toIdle (s : State) : State := { s with latch := none, rsp := none, wait := 0 }

/-- R24, R29: the port values are latched, `busy` is set, and the free latency of this command is drawn. -/
def State.accept (c : CmdPorts) (s : State) : State :=
  { s with latch := some c, rsp := none, wait := Config.respWait s.accepted c, accepted := s.accepted + 1 }

/-- R25, R29: the response has been taken; `busy` and `rsp_valid` are cleared. -/
def State.deliver (s : State) : State := { s with latch := none, rsp := none }

/-- R210: an edge at which the command in flight is not answered yet, `w` more to come. -/
def State.keepWaiting (w : Nat) (s : State) : State := { s with wait := w }

end Sys2Proof.Machine
end

