-- ==== Sys2Proof/Machine/BitFieldHeader.lean ====
section
/-! DEFINITION. The BitFieldHeader family (40_bitfield_header.md): PACK and UNPACK. -/

namespace Sys2Proof.Machine

/-- R91: PACK. -/
def execPack (liRaw vnRaw modeRaw : Byte) (s : State) : Host.Outcome State Fault Refusal :=
  if headerInRange liRaw vnRaw modeRaw then respond (.pack (packHeader liRaw vnRaw modeRaw)) s
  else raiseError .invalidArgument s

/-- R92: UNPACK. -/
def execUnpack (hdr : Byte) (s : State) : Host.Outcome State Fault Refusal :=
  respond (.unpack (headerLi hdr) (headerVn hdr) (headerMode hdr)) s

end Sys2Proof.Machine
end

