-- ==== Sys2Proof/Machine/OffsetCalculator.lean ====
section
/-! DEFINITION. The OffsetCalculator family (43_offset_calculator.md): DELAY and OFFSET. -/

namespace Sys2Proof.Machine

/-- R142, R141: DELAY. -/
def execDelay (t1 t2 t3 t4 : OptInstant) (s : State) : Host.Outcome State Fault Refusal :=
  if allPresent t1 t2 t3 t4 then respond (.delay (delayMillis t1.instant t2.instant t3.instant t4.instant)) s
  else raiseError .missingTimestamp s

/-- R143, R141: OFFSET. -/
def execOffset (t1 t2 t3 t4 : OptInstant) (s : State) : Host.Outcome State Fault Refusal :=
  if allPresent t1 t2 t3 t4 then respond (.offset (offsetMillis t1.instant t2.instant t3.instant t4.instant)) s
  else raiseError .missingTimestamp s

end Sys2Proof.Machine
end

