-- ==== Sys2Proof/Machine/PacketCodec.lean ====
section
/-! DEFINITION. The PacketCodec family (42_packet_codec.md): ENCODE, DECODE and MKREQ. -/

namespace Sys2Proof.Machine

/-- R121: the eleven writes of ENCODE into a result buffer that holds `b` before them. -/
def writePacket (b : Buf48) (p : Packet) : Buf48 :=
  let b := memWrite b 0 1 p.hdr
  let b := memWrite b 1 1 p.stratum
  let b := memWrite b 2 1 p.poll
  let b := memWrite b 3 1 p.precision
  let b := memWrite b 4 4 p.rootDelay
  let b := memWrite b 8 4 p.rootDisp
  let b := memWrite b 12 4 p.refId
  let b := memWrite b 16 8 (toWire64 p.refTs)
  let b := memWrite b 24 8 (toWire64 p.orgTs)
  let b := memWrite b 32 8 (toWire64 p.recTs)
  memWrite b 40 8 (toWire64 p.xmtTs)

/-- R125: the eleven reads of DECODE. -/
def readPacket (b : Buf48) : Packet :=
  { hdr := memRead b 0 1
    stratum := memRead b 1 1
    poll := memRead b 2 1
    precision := memRead b 3 1
    rootDelay := memRead b 4 4
    rootDisp := memRead b 8 4
    refId := memRead b 12 4
    refTs := fromWire64 (memRead b 16 8)
    orgTs := fromWire64 (memRead b 24 8)
    recTs := fromWire64 (memRead b 32 8)
    xmtTs := fromWire64 (memRead b 40 8) }

/-- R134: the writes of MKREQ into a result buffer that holds `b` before them. -/
def writeRequest (b : Buf48) (liRaw vnRaw modeRaw : Byte) (now : Instant) : Buf48 :=
  let b := memWrite b 0 1 (packHeader liRaw vnRaw modeRaw)
  let b := memClear b 1 39
  memWrite b 40 8 (toWire64 { present := true, instant := now })

/-- R121: ENCODE. Every byte of the result is written, so what the buffer holds before is immaterial
(notes/assumptions/8.md). -/
def execEncode (pkt : Packet) (s : State) : Host.Outcome State Fault Refusal :=
  respond (.encode (writePacket .zero pkt)) s

/-- R125, R126: DECODE. -/
def execDecode (len : BitVec 16) (data : Buf48) (s : State) : Host.Outcome State Fault Refusal :=
  if len.toNat < Config.pktLen then raiseError .formatError s
  else respond (.decode (readPacket data)) s

/-- R134: MKREQ. -/
def execMkreq (liRaw vnRaw modeRaw : Byte) (now : Instant) (s : State) : Host.Outcome State Fault Refusal :=
  if headerInRange liRaw vnRaw modeRaw then respond (.mkreq (writeRequest .zero liRaw vnRaw modeRaw now)) s
  else raiseError .invalidArgument s

end Sys2Proof.Machine
end

