-- ==== Sys2Proof/Machine/Reserved.lean ====
section
/-! DEFINITION. The seven reserved operation codes (30_encoding.md rule R62): accepted like any other command and
answered with `ILLEGAL_OP` and no result (notes/assumptions/6.md). -/

namespace Sys2Proof.Machine

/-- R62: `cmd_op` = 9. -/
def execReserved9 (s : State) : Host.Outcome State Fault Refusal := raiseError .illegalOp s

/-- R62: `cmd_op` = 10. -/
def execReserved10 (s : State) : Host.Outcome State Fault Refusal := raiseError .illegalOp s

/-- R62: `cmd_op` = 11. -/
def execReserved11 (s : State) : Host.Outcome State Fault Refusal := raiseError .illegalOp s

/-- R62: `cmd_op` = 12. -/
def execReserved12 (s : State) : Host.Outcome State Fault Refusal := raiseError .illegalOp s

/-- R62: `cmd_op` = 13. -/
def execReserved13 (s : State) : Host.Outcome State Fault Refusal := raiseError .illegalOp s

/-- R62: `cmd_op` = 14. -/
def execReserved14 (s : State) : Host.Outcome State Fault Refusal := raiseError .illegalOp s

/-- R62: `cmd_op` = 15. -/
def execReserved15 (s : State) : Host.Outcome State Fault Refusal := raiseError .illegalOp s

end Sys2Proof.Machine
end

