-- ==== Sys2Proof/Machine/TimestampConverter.lean ====
section
/-! DEFINITION. The TimestampConverter family (41_timestamp_converter.md): TOWIRE and FROMWIRE. -/

namespace Sys2Proof.Machine

/-- R101: TOWIRE. -/
def execTowire (t : OptInstant) (s : State) : Host.Outcome State Fault Refusal :=
  respond (.towire (wireSec (toWire64 t)) (wireFrac (toWire64 t))) s

/-- R104: FROMWIRE. -/
def execFromwire (sec frac : BitVec 32) (s : State) : Host.Outcome State Fault Refusal :=
  respond (.fromwire (fromWire64 (wireOf sec frac))) s

end Sys2Proof.Machine
end

