-- ==== Sys2Proof/Machine/Dispatch.lean ====
section
/-! DEFINITION. The one dispatch from a command to its meaning. -/

namespace Sys2Proof.Machine

/-- What a command does when the block answers it (30_encoding.md rule R61). -/
def exec (i : Instr) (s : State) : Host.Outcome State Fault Refusal :=
  match i with
  | .pack liRaw vnRaw modeRaw => Sys2Proof.Machine.execPack liRaw vnRaw modeRaw s
  | .unpack hdr => Sys2Proof.Machine.execUnpack hdr s
  | .towire t => Sys2Proof.Machine.execTowire t s
  | .fromwire sec frac => Sys2Proof.Machine.execFromwire sec frac s
  | .encode pkt => Sys2Proof.Machine.execEncode pkt s
  | .decode len data => Sys2Proof.Machine.execDecode len data s
  | .delay t1 t2 t3 t4 => Sys2Proof.Machine.execDelay t1 t2 t3 t4 s
  | .offset t1 t2 t3 t4 => Sys2Proof.Machine.execOffset t1 t2 t3 t4 s
  | .mkreq liRaw vnRaw modeRaw now => Sys2Proof.Machine.execMkreq liRaw vnRaw modeRaw now s
  | .reserved9 => Sys2Proof.Machine.execReserved9 s
  | .reserved10 => Sys2Proof.Machine.execReserved10 s
  | .reserved11 => Sys2Proof.Machine.execReserved11 s
  | .reserved12 => Sys2Proof.Machine.execReserved12 s
  | .reserved13 => Sys2Proof.Machine.execReserved13 s
  | .reserved14 => Sys2Proof.Machine.execReserved14 s
  | .reserved15 => Sys2Proof.Machine.execReserved15 s

end Sys2Proof.Machine
end

