-- ==== Sys2Proof/Machine/Step.lean ====
section
/-! DEFINITION. One step: one rising edge of `clk` (10_state.md rules R24, R25, R29; 70_reset_and_hazards.md rules
R190, R202, R210). -/

namespace Sys2Proof.Machine

/-- At an edge with `rst = 1` the block goes idle. Otherwise it accepts a command, or delivers its response, or
answers the command in flight once that command's free latency is over, or nothing changes. The host's next
levels then stand on the wires. -/
def step (s : State) : Host.Outcome State Fault Refusal :=
  if s.pins.rst then .next s.toIdle.advance
  else if s.accepts then .next (s.accept s.pins.cmd).advance
  else if s.delivers then .next s.deliver.advance
  else
    match s.latch, s.rsp, s.wait with
    | some c, none, 0 => exec (decode c) s.advance
    | some _, none, w + 1 => .next (s.keepWaiting w).advance
    | _, _, _ => .next s.advance

/-- The host's coming levels with `rst` low at the coming edge. -/
def releaseReset (inputs : List Pins) : List Pins :=
  match inputs with
  | [] => []
  | p :: rest => { p with rst := false } :: rest

/-- The state in which the command that a table word stands for has been accepted and is about to be answered,
so that the next step runs it: it is latched, no edge is left to wait, `rst` is low (notes/assumptions/4.md). -/
def State.withFetchWord (s : State) (nbits w : Nat) : State :=
  { s with latch := some (CmdPorts.ofTableWord nbits w), rsp := none, wait := 0, inputs := releaseReset s.inputs }

end Sys2Proof.Machine
end

