-- ==== Sys2Proof/Safety.lean ====
section
/-! DEFINITION. What claims about runs are stated in: the response of a command, the invariant of the states a
run reaches, and what a run accepts and delivers. -/

namespace Sys2Proof.Machine

/-- 00_scope.md rule R12: the one outcome a command has. It is read off the answer given right after reset;
that every state gives the same answer is a claim of its own (`Obligations.EveryCommandAnswersPurely`). -/
def responseOf (i : Instr) : Option Response :=
  match exec i State.reset with
  | .next t => t.rsp
  | .fault _ => none
  | .refused _ => none

/-- 10_state.md rules R24 and R26: two samples of the command port carry the same operation select code and agree
on every operand port that R26 lists for it. The other ports may differ. -/
structure agreeOnListed (c d : CmdPorts) : Prop where
  op : c.op = d.op
  pack : c.op = 0 → c.liRaw = d.liRaw ∧ c.vnRaw = d.vnRaw ∧ c.modeRaw = d.modeRaw
  unpack : c.op = 1 → c.hdr = d.hdr
  towire : c.op = 2 → c.t = d.t
  fromwire : c.op = 3 → c.sec = d.sec ∧ c.frac = d.frac
  encode : c.op = 4 → c.pkt = d.pkt
  decode : c.op = 5 → c.len = d.len ∧ c.data = d.data
  calculator : c.op = 6 ∨ c.op = 7 → c.t1 = d.t1 ∧ c.t2 = d.t2 ∧ c.t3 = d.t3 ∧ c.t4 = d.t4
  mkreq : c.op = 8 → c.liRaw = d.liRaw ∧ c.vnRaw = d.vnRaw ∧ c.modeRaw = d.modeRaw ∧ c.now = d.now

/-- 10_state.md rule R26: which result ports a result drives, one Bool per port in the order `hdr`, `li`,
`vn`, `mode`, `sec`, `frac`, `t`, `data`, `pkt`, `ms`. -/
def Result.driven (x : Result) : List Bool :=
  [x.hdrPort.isSome, x.liPort.isSome, x.vnPort.isSome, x.modePort.isSome, x.secPort.isSome, x.fracPort.isSome,
    x.tPort.isSome, x.dataPort.isSome, x.pktPort.isSome, x.msPort.isSome]

/-- 10_state.md rule R29: a response is presented only while the command it answers is still latched, and is the
response of that command; no edge is left to wait when nothing is in flight or the answer is there. -/
structure State.Inv (s : State) : Prop where
  answered : ∀ r, s.rsp = some r → ∃ c, s.latch = some c ∧ responseOf (decode c) = some r
  idleSettled : s.latch = none → s.wait = 0
  answerSettled : s.rsp ≠ none → s.wait = 0

/-- What the block still owes the host: the presented response, or the response of the command in flight. -/
def State.outstanding (s : State) : List Response :=
  match s.rsp, s.latch with
  | some r, _ => [r]
  | none, some c => (responseOf (decode c)).toList
  | none, none => []

/-- `rst` stays low at every edge the host has fixed. -/
def State.noReset (s : State) : Prop := ∀ p ∈ s.inputs, p.rst = false

/-- What a run accepted and delivered, in order, and the state it ends in. -/
structure History where
  accepted  : List CmdPorts
  delivered : List Response
  final     : State
  deriving DecidableEq, Repr

/-- The history of `k` edges; none if one of them does not give a next state. -/
def history : Nat → State → Option History
  | 0, s => some { accepted := [], delivered := [], final := s }
  | k + 1, s =>
    match step s with
    | .next t =>
      (history k t).map fun h =>
        { accepted := (if s.accepts then [s.pins.cmd] else []) ++ h.accepted
          delivered := (if s.delivers then s.rsp.toList else []) ++ h.delivered
          final := h.final }
    | .fault _ => none
    | .refused _ => none

/-- A safe run of `k` edges: no edge stops the machine. -/
def State.runsSafely (k : Nat) (s : State) : Prop := ∃ t, Host.Core.run core k s = .next t

end Sys2Proof.Machine
end

