-- ==== Sys2Proof/Certificates/Slice0/Obligations.lean ====
section
/-! DEFINITION. The statements about the model, each a formalisation of the rule of spec/ its docstring names. In
all of them a response is `Response.ok` with a result or `Response.error` with none (60_exceptions.md rule R166),
and `{ s with rsp := some r }` is the whole next state of an answered command: everything but the response is
unchanged. -/

open Sys2Proof Sys2Proof.Machine

/-! ### Reset, the two channels, order -/

/-- R30: what reset leaves. The three model fields beside (`wait`, `accepted`, `inputs`) are not the spec's. -/
def Obligations.ResetIsIdle : Prop :=
  State.reset.busy = false ∧ State.reset.rspValid = false ∧ State.reset.cmdReady = true ∧
  State.reset.latch = none ∧ State.reset.rsp = none ∧ State.reset.rspStatus = none ∧ State.reset.result = none ∧
  (∀ s : State, s.latch = none → s.rsp = none → s.pins.rst = false → s.cmdReady = true) ∧
  (∀ s : State, s.rspValid = false → s.rspStatus = none ∧ s.result = none)

/-- R190: from any state, busy or not, an edge with `rst = 1` accepts nothing, delivers nothing and leaves the idle
state, ready as soon as `rst` is low. -/
def Obligations.RstEntersIdle : Prop :=
  ∀ s : State, s.pins.rst = true →
    s.cmdReady = false ∧ s.accepts = false ∧ s.delivers = false ∧
    ∃ t, step s = .next t ∧ t.busy = false ∧ t.rspValid = false ∧ t.latch = none ∧ t.rsp = none ∧
      t.outstanding = [] ∧ (t.pins.rst = false → t.cmdReady = true)

/-- R191: a command that was accepted and not yet delivered is dropped by `rst`. The state after is the one a block
reaches that never held the command, up to the model's own count of accepted commands. -/
def Obligations.ResetDropsCommand : Prop :=
  ∀ (s : State) (c : CmdPorts) (n : Nat), s.latch = some c → s.pins.rst = true →
    s.delivers = false ∧
    ∃ t, step s = .next t ∧ t.outstanding = [] ∧
      step { latch := none, rsp := none, wait := 0, accepted := n, inputs := s.inputs } =
        .next { t with accepted := n } ∧
      (t.pins.rst = false → t.pins.cmdValid = true → t.accepts = true)

/-- R24: when a command is accepted, what is latched, and that the operand ports the operation does not list cannot
affect the response. -/
def Obligations.CommandAccepted : Prop :=
  (∀ s : State, s.accepts = true ↔ s.pins.rst = false ∧ s.pins.cmdValid = true ∧ s.cmdReady = true) ∧
  (∀ s : State, s.accepts = true →
    ∃ t, step s = .next t ∧ t.latch = some s.pins.cmd ∧ t.busy = true ∧ t.rspValid = false ∧
      t.accepted = s.accepted + 1 ∧ t.inputs = s.inputs.tail) ∧
  (∀ s t : State, s.accepts = false → step s = .next t → t.latch = none ∨ t.latch = s.latch) ∧
  (∀ (c d : CmdPorts) (s : State), agreeOnListed c d → exec (decode c) s = exec (decode d) s)

/-- R25: a presented response stands unchanged until the edge at which it is delivered. The premise is the model's
invariant (`Obligations.StepKeepsInv`): a response is presented only while its command is latched. -/
def Obligations.ResponseHeldUntilDelivered : Prop :=
  ∀ (s : State) (r : Response), s.Inv → s.rsp = some r → s.pins.rst = false →
    (s.pins.rspReady = false →
      s.delivers = false ∧ step s = .next { s with inputs := s.inputs.tail }) ∧
    (s.pins.rspReady = true →
      s.delivers = true ∧ step s = .next { s with latch := none, rsp := none, inputs := s.inputs.tail })

/-- R26: for every command, which result ports its response drives and which statuses it can carry. -/
def Obligations.ResultPortsByOperation : Prop :=
  ∀ c : CmdPorts, ∃ r, responseOf (decode c) = some r ∧
    (∀ x, r.result = some x → x.driven =
      match c.op.toNat with
      | 0 => [true, false, false, false, false, false, false, false, false, false]
      | 1 => [false, true, true, true, false, false, false, false, false, false]
      | 2 => [false, false, false, false, true, true, false, false, false, false]
      | 3 => [false, false, false, false, false, false, true, false, false, false]
      | 4 => [false, false, false, false, false, false, false, true, false, false]
      | 5 => [false, false, false, false, false, false, false, false, true, false]
      | 6 => [false, false, false, false, false, false, false, false, false, true]
      | 7 => [false, false, false, false, false, false, false, false, false, true]
      | 8 => [false, false, false, false, false, false, false, true, false, false]
      | _ => []) ∧
    (r.status = 0 ↔ r.result ≠ none) ∧
    (r.status ∈ (match c.op.toNat with
      | 0 => [0, 1]
      | 5 => [0, 2]
      | 6 => [0, 3]
      | 7 => [0, 3]
      | 8 => [0, 1]
      | 1 => [0]
      | 2 => [0]
      | 3 => [0]
      | 4 => [0]
      | _ => [4] : List (BitVec 3)))

/-- A step runs the decoded command: an edge with `rst` low, a command latched, no response yet and no edge left to
wait IS `exec` of the decoded command, on the state whose coming host levels have moved up by one. -/
def Obligations.StepRunsDecodedCommand : Prop :=
  (∀ (s : State) (c : CmdPorts), s.pins.rst = false → s.latch = some c → s.rsp = none → s.wait = 0 →
    step s = exec (decode c) { s with inputs := s.inputs.tail }) ∧
  (∀ (s : State) (nbits w : Nat) (i : Instr), decodeTableWord nbits w = some i →
    step (s.withFetchWord nbits w) =
      exec i { s.withFetchWord nbits w with inputs := (s.withFetchWord nbits w).inputs.tail })

/-- R12: every command has exactly one outcome, a result or one error, the same in every state; and answering it
changes nothing but the presented response. Every constructor of `Instr` completes. -/
def Obligations.EveryCommandAnswersPurely : Prop :=
  ∀ i : Instr, ∃ r, responseOf i = some r ∧ ∀ s : State, exec i s = .next { s with rsp := some r }

/-- R29, R210: unless `rst` intervenes, a command in flight is answered after a finite number of edges, whatever its
latency, and not at the edge that accepts it. -/
def Obligations.AcceptedCommandIsAnswered : Prop :=
  (∀ s t : State, s.accepts = true → step s = .next t → t.rspValid = false) ∧
  (∀ (s : State) (c : CmdPorts), s.latch = some c → s.rsp = none → s.noReset →
    ∃ k t r, k ≤ s.wait + 1 ∧ Host.Core.run core k s = .next t ∧ t.latch = some c ∧ t.rsp = some r ∧
      responseOf (decode c) = some r)

/-- R50: with no reset, the responses delivered are those of the commands accepted, in order, one each; what is not
delivered yet is still owed; and a command is accepted only when nothing is owed. -/
def Obligations.ResponsesInCommandOrder : Prop :=
  (∀ (k : Nat) (s : State), s.Inv → s.noReset →
    ∃ h, history k s = some h ∧
      h.delivered ++ h.final.outstanding =
        s.outstanding ++ h.accepted.filterMap (fun c => responseOf (decode c))) ∧
  (∀ s : State, s.Inv → s.accepts = true → s.outstanding = [])

/-- R50 and R191 together: resets or not, what is delivered is part of what was owed, in order; a reset can only
lose responses. -/
def Obligations.ResetOnlyLosesResponses : Prop :=
  ∀ (k : Nat) (s : State) (h : History), s.Inv → history k s = some h →
    (h.delivered ++ h.final.outstanding).Sublist
      (s.outstanding ++ h.accepted.filterMap (fun c => responseOf (decode c)))

/-- R202, R29: while a command is in flight none is accepted and the block stays busy until the edge that delivers
its response; once idle it accepts whatever is presented, at once. -/
def Obligations.OneCommandInFlight : Prop :=
  (∀ s t : State, s.Inv → s.busy = true → s.pins.rst = false → step s = .next t →
    s.accepts = false ∧ (t.busy = false ↔ s.delivers = true)) ∧
  (∀ s : State, s.busy = false → s.pins.rst = false → s.pins.cmdValid = true → s.accepts = true)

/-- R200: once a command is accepted the host may change what it drives on `cmd_valid`, `cmd_op` and the operand
ports; the block's own state moves the same. -/
def Obligations.OperandsFreeAfterAcceptance : Prop :=
  ∀ (s t : State) (p q : Pins) (rest : List Pins), s.busy = true → p.rst = q.rst → p.rspReady = q.rspReady →
    step { s with inputs := p :: rest } = .next t → step { s with inputs := q :: rest } = .next t

/-- The invariant holds right after reset. -/
def Obligations.ResetInv : Prop := State.reset.Inv

/-- R29: from every state that meets the invariant, an edge leads to one that meets it: a presented response is that
of the command still latched. -/
def Obligations.StepKeepsInv : Prop := ∀ s t : State, s.Inv → step s = .next t → t.Inv

/-- R206: no edge stops the block; every run is safe. -/
def Obligations.NoEdgeStops : Prop := (∀ s : State, ∃ t, step s = .next t) ∧ ∀ (k : Nat) (s : State), s.runsSafely k

/-! ### BitFieldHeader -/

/-- R91: PACK, its encoding, its result and its one error. -/
def Obligations.PackBuildsHeader : Prop :=
  (∀ c : CmdPorts, c.op = 0b0000#4 → decode c = .pack c.liRaw c.vnRaw c.modeRaw) ∧
  ∀ (l v m : Byte) (s : State),
    (l.toNat ≤ 3 ∧ v.toNat ≤ 7 ∧ m.toNat ≤ 7 →
      ∃ h : Byte, exec (.pack l v m) s = .next { s with rsp := some (.ok (.pack h)) } ∧
        h.extractLsb' 6 2 = l.extractLsb' 0 2 ∧ h.extractLsb' 3 3 = v.extractLsb' 0 3 ∧
        h.extractLsb' 0 3 = m.extractLsb' 0 3 ∧ h.toNat = l.toNat * 64 + v.toNat * 8 + m.toNat) ∧
    (3 < l.toNat ∨ 7 < v.toNat ∨ 7 < m.toNat →
      exec (.pack l v m) s = .next { s with rsp := some (.error .invalidArgument) })

/-- R92: UNPACK, its encoding and its results. It completes for every byte in every state, and changes nothing but
the presented response. -/
def Obligations.UnpackSplitsHeader : Prop :=
  (∀ c : CmdPorts, c.op = 0b0001#4 → decode c = .unpack c.hdr) ∧
  ∀ (h : Byte) (s : State), ∃ (l : BitVec 2) (v m : BitVec 3),
    exec (.unpack h) s = .next { s with rsp := some (.ok (.unpack l v m)) } ∧
    l.toNat = h.toNat / 64 ∧ v.toNat = h.toNat / 8 % 8 ∧ m.toNat = h.toNat % 8

/-- R93: PACK then UNPACK gives the in-range operands back, and UNPACK then PACK gives the byte back; so PACK on
in-range operands is one to one and onto. -/
def Obligations.PackUnpackRoundTrip : Prop :=
  (∀ l v m : Byte, l.toNat ≤ 3 → v.toNat ≤ 7 → m.toNat ≤ 7 →
    ∃ h, responseOf (.pack l v m) = some (.ok (.pack h)) ∧
      responseOf (.unpack h) = some (.ok (.unpack (l.setWidth 2) (v.setWidth 3) (m.setWidth 3)))) ∧
  (∀ h : Byte, ∃ l v m, responseOf (.unpack h) = some (.ok (.unpack l v m)) ∧
    responseOf (.pack (l.setWidth 8) (v.setWidth 8) (m.setWidth 8)) = some (.ok (.pack h)))

/-! ### TimestampConverter -/

/-- R101: TOWIRE, in the words of its pseudocode (`/` and `%` by a positive number are the floor and the
non-negative remainder of R9), and the equivalent 64-bit form. -/
def Obligations.TowireConverts : Prop :=
  (∀ c : CmdPorts, c.op = 0b0010#4 → decode c = .towire c.t) ∧
  ∀ (t : OptInstant) (s : State), ∃ sec frac : BitVec 32,
    exec (.towire t) s = .next { s with rsp := some (.ok (.towire sec frac)) } ∧
    (t.present = false → sec = 0 ∧ frac = 0) ∧
    (t.present = true →
      (sec.toNat : Int) = (t.instant.toInt / 2 ^ 32 + 2208988800) % 2 ^ 32 ∧
      (frac.toNat : Int) = t.instant.toInt % 2 ^ 32 ∧ frac = t.instant.extractLsb' 0 32 ∧
      (sec.toNat : Int) * 2 ^ 32 + frac.toNat = (t.instant.toInt + 2208988800 * 2 ^ 32) % 2 ^ 64)

/-- R103: the floor split with its example, the range of the sum that is wrapped, exactly which instants convert
without wrap and what becomes of the others, and exactly which two present instants become the all-zero field. -/
def Obligations.TowireWrapsSeconds : Prop :=
  (∃ x : Instant, x.toInt = -5 * 2 ^ 30 ∧
    responseOf (.towire ⟨true, x⟩) = some (.ok (.towire 0x83AA7E7E#32 0xC0000000#32))) ∧
  ∀ x : Instant,
    (-2085978496 ≤ x.toInt / 2 ^ 32 + 2208988800 ∧ x.toInt / 2 ^ 32 + 2208988800 ≤ 6503956095) ∧
    ∃ sec frac t,
      responseOf (.towire ⟨true, x⟩) = some (.ok (.towire sec frac)) ∧
      responseOf (.fromwire sec frac) = some (.ok (.fromwire t)) ∧
      (sec.toNat : Int) = (x.toInt / 2 ^ 32 + 2208988800) % 2 ^ 32 ∧ (frac.toNat : Int) = x.toInt % 2 ^ 32 ∧
      (t.instant = x ↔ -9487534653230284800 ≤ x.toInt ∧ x.toInt < 2085978496 * 2 ^ 32) ∧
      (t.instant ≠ x → ∃ y : Instant, (y.toInt = x.toInt + 2 ^ 64 ∨ y.toInt = x.toInt - 2 ^ 64) ∧
        -9487534653230284800 ≤ y.toInt ∧ y.toInt < 2085978496 * 2 ^ 32 ∧
        responseOf (.towire ⟨true, y⟩) = some (.ok (.towire sec frac))) ∧
      (sec = 0 ∧ frac = 0 ↔ x.toInt = -9487534653230284800 ∨ x.toInt = 8959209420479266816)

/-- R104: FROMWIRE; the instant part is driven even for the all-zero field, which alone is reported absent. -/
def Obligations.FromwireConverts : Prop :=
  (∀ c : CmdPorts, c.op = 0b0011#4 → decode c = .fromwire c.sec c.frac) ∧
  ∀ (sec frac : BitVec 32) (s : State), ∃ t : OptInstant,
    exec (.fromwire sec frac) s = .next { s with rsp := some (.ok (.fromwire t)) } ∧
    t.instant.toInt = (sec.toNat : Int) * 2 ^ 32 + frac.toNat - 2208988800 * 2 ^ 32 ∧
    t.instant.toInt = ((sec.toNat : Int) - 2208988800) * 2 ^ 32 + frac.toNat ∧
    (t.present = false ↔ sec = 0 ∧ frac = 0)

/-- R105: the range of FROMWIRE, its two ends, that the lower one needs more than 64 bits, and that it is
injective. -/
def Obligations.FromwireRangeAndInjective : Prop :=
  (∀ sec frac : BitVec 32, ∃ t, responseOf (.fromwire sec frac) = some (.ok (.fromwire t)) ∧
    -9487534653230284800 ≤ t.instant.toInt ∧ t.instant.toInt ≤ 8959209420479266815) ∧
  (∃ t, responseOf (.fromwire 0 0) = some (.ok (.fromwire t)) ∧ t.instant.toInt = -9487534653230284800 ∧
    t.instant.toInt < -2 ^ 63) ∧
  (∃ t, responseOf (.fromwire 0xFFFFFFFF#32 0xFFFFFFFF#32) = some (.ok (.fromwire t)) ∧
    t.instant = 0x07C55817FFFFFFFFF#65 ∧ t.instant.toInt = 8959209420479266815) ∧
  (∀ a b a' b' t t', responseOf (.fromwire a b) = some (.ok (.fromwire t)) →
    responseOf (.fromwire a' b') = some (.ok (.fromwire t')) → t.instant = t'.instant → a = a' ∧ b = b')

/-- R109: the five round trips, (a) from the wire and back, (b) to (e) to the wire and back. -/
def Obligations.TimestampRoundTrips : Prop :=
  (∀ sec frac, ∃ t, responseOf (.fromwire sec frac) = some (.ok (.fromwire t)) ∧
    responseOf (.towire t) = some (.ok (.towire sec frac))) ∧
  (∀ t : OptInstant, ∃ sec frac u, responseOf (.towire t) = some (.ok (.towire sec frac)) ∧
    responseOf (.fromwire sec frac) = some (.ok (.fromwire u)) ∧
    (t.present = false → u.present = false ∧ u.same t = true) ∧
    (t.present = true → -9487534653230284800 < t.instant.toInt → t.instant.toInt < 2085978496 * 2 ^ 32 → u = t) ∧
    (t.present = true → t.instant.toInt = -9487534653230284800 → u.present = false ∧ u.same t = false) ∧
    (t.present = true →
      t.instant.toInt < -9487534653230284800 ∨ 2085978496 * 2 ^ 32 ≤ t.instant.toInt →
      if t.instant.toInt = 2085978496 * 2 ^ 32 then u.present = false
      else u.present = true ∧ u.instant.toInt % 2 ^ 64 = t.instant.toInt % 2 ^ 64 ∧
        -9487534653230284800 < u.instant.toInt ∧ u.instant.toInt < 2085978496 * 2 ^ 32))

/-! ### PacketCodec and the packet buffer -/

/-- R43: `MemRead` of 1, 4 and 8 bytes as the sum of its bytes, most significant first. -/
def Obligations.MemReadIsBigEndian : Prop :=
  ∀ (b : Buf48) (k : Nat),
    (∀ h : k + 1 ≤ 48, (memRead b k 1 h).toNat = b[k].toNat) ∧
    (∀ h : k + 4 ≤ 48, (memRead b k 4 h).toNat =
      b[k].toNat * 2 ^ 24 + b[k + 1].toNat * 2 ^ 16 + b[k + 2].toNat * 2 ^ 8 + b[k + 3].toNat) ∧
    (∀ h : k + 8 ≤ 48, (memRead b k 8 h).toNat =
      b[k].toNat * 2 ^ 56 + b[k + 1].toNat * 2 ^ 48 + b[k + 2].toNat * 2 ^ 40 + b[k + 3].toNat * 2 ^ 32 +
      b[k + 4].toNat * 2 ^ 24 + b[k + 5].toNat * 2 ^ 16 + b[k + 6].toNat * 2 ^ 8 + b[k + 7].toNat)

/-- R44: `MemWrite` puts byte `i` of the field, most significant first, at offset `k+i` and changes no other byte;
and ENCODE's and MKREQ's buffers do not depend on what stood in them before, so no byte is left unwritten. -/
def Obligations.MemWriteIsBigEndianAndTotal : Prop :=
  (∀ (b : Buf48) (k n : Nat) (v : BitVec (8 * n)) (h : k + n ≤ 48),
    (∀ i (hi : i < n), (memWrite b k n v h)[k + i] = v.extractLsb' (8 * (n - 1 - i)) 8) ∧
    (∀ j (hj : j < 48), j < k ∨ k + n ≤ j → (memWrite b k n v h)[j] = b[j])) ∧
  (∀ (b b' : Buf48) (p : Packet), writePacket b p = writePacket b' p) ∧
  (∀ (b b' : Buf48) (l v m : Byte) (now : Instant), writeRequest b l v m now = writeRequest b' l v m now)

/-- R121: ENCODE, its encoding, and the eleven fields of its result, which tile the 48 bytes (R41); the timestamp
fields are zero for an absent timestamp and the instant moved to the protocol epoch modulo 2^64 for a present one. -/
def Obligations.EncodeLaysOutPacket : Prop :=
  (∀ c : CmdPorts, c.op = 0b0100#4 → decode c = .encode c.pkt) ∧
  ∀ (p : Packet) (s : State), ∃ b : Buf48,
    exec (.encode p) s = .next { s with rsp := some (.ok (.encode b)) } ∧
    b[0] = p.hdr ∧ b[1] = p.stratum ∧ b[2] = p.poll ∧ b[3] = p.precision ∧
    memRead b 4 4 = p.rootDelay ∧ memRead b 8 4 = p.rootDisp ∧ memRead b 12 4 = p.refId ∧
    ∀ (k : Nat) (hk : k + 8 ≤ 48) (t : OptInstant),
      (k, t) ∈ [(16, p.refTs), (24, p.orgTs), (32, p.recTs), (40, p.xmtTs)] →
      ((memRead b k 8 hk).toNat : Int) =
        if t.present then (t.instant.toInt + 2208988800 * 2 ^ 32) % 2 ^ 64 else 0

/-- R125: DECODE, its encoding, its error below 48 bytes, and the eleven fields it reads. -/
def Obligations.DecodeParsesPacket : Prop :=
  (∀ c : CmdPorts, c.op = 0b0101#4 → decode c = .decode c.len c.data) ∧
  ∀ (len : BitVec 16) (b : Buf48) (s : State),
    (len.toNat < 48 → exec (.decode len b) s = .next { s with rsp := some (.error .formatError) }) ∧
    (48 ≤ len.toNat → ∃ p : Packet, exec (.decode len b) s = .next { s with rsp := some (.ok (.decode p)) } ∧
      p.hdr = b[0] ∧ p.stratum = b[1] ∧ p.poll = b[2] ∧ p.precision = b[3] ∧
      p.rootDelay = memRead b 4 4 ∧ p.rootDisp = memRead b 8 4 ∧ p.refId = memRead b 12 4 ∧
      ∀ (k : Nat) (hk : k + 8 ≤ 48) (t : OptInstant),
        (k, t) ∈ [(16, p.refTs), (24, p.orgTs), (32, p.recTs), (40, p.xmtTs)] →
        t.instant.toInt = ((memRead b k 8 hk).toNat : Int) - 2208988800 * 2 ^ 32 ∧
        (t.present = false ↔ ∀ i (hi : i < 8), b[k + i] = 0))

/-- R126: every length from 48 up gives the same response. -/
def Obligations.LongDatagramDecodesFirst48 : Prop :=
  ∀ (len : BitVec 16) (b : Buf48) (s : State), 48 ≤ len.toNat → exec (.decode len b) s = exec (.decode 48 b) s

/-- R47: bytes at or beyond `len` are not part of the datagram and cannot affect the response. -/
def Obligations.BytesBeyondLenIgnored : Prop :=
  ∀ (len : BitVec 16) (b b' : Buf48) (s : State),
    (∀ j (hj : j < 48), j < len.toNat → b[j] = b'[j]) → exec (.decode len b) s = exec (.decode len b') s

/-- R130: a packet comes back from ENCODE then DECODE, equal in the sense of R28, exactly when it is
representable. -/
def Obligations.PacketRoundTrip : Prop :=
  ∀ p : Packet, ∃ b q, responseOf (.encode p) = some (.ok (.encode b)) ∧
    responseOf (.decode 48 b) = some (.ok (.decode q)) ∧ (p.representable = true ↔ q.same p = true)

/-- R131: every buffer comes back from DECODE then ENCODE byte for byte, the packet between is representable, and
DECODE is injective on buffers. -/
def Obligations.BufferRoundTrip : Prop :=
  (∀ b : Buf48, ∃ p, responseOf (.decode 48 b) = some (.ok (.decode p)) ∧
    responseOf (.encode p) = some (.ok (.encode b)) ∧ p.representable = true) ∧
  (∀ b b' : Buf48, responseOf (.decode 48 b) = responseOf (.decode 48 b') → b = b')

/-- R134: MKREQ, its encoding, its one error and its 48 bytes. -/
def Obligations.MkreqBuildsRequest : Prop :=
  (∀ c : CmdPorts, c.op = 0b1000#4 → decode c = .mkreq c.liRaw c.vnRaw c.modeRaw c.now) ∧
  ∀ (l v m : Byte) (now : Instant) (s : State),
    (l.toNat ≤ 3 ∧ v.toNat ≤ 7 ∧ m.toNat ≤ 7 →
      ∃ b : Buf48, exec (.mkreq l v m now) s = .next { s with rsp := some (.ok (.mkreq b)) } ∧
        b[0].toNat = l.toNat * 64 + v.toNat * 8 + m.toNat ∧
        (∀ j (hj : j < 48), 1 ≤ j → j < 40 → b[j] = 0) ∧
        ((memRead b 40 8).toNat : Int) = (now.toInt + 2208988800 * 2 ^ 32) % 2 ^ 64) ∧
    (3 < l.toNat ∨ 7 < v.toNat ∨ 7 < m.toNat →
      exec (.mkreq l v m now) s = .next { s with rsp := some (.error .invalidArgument) })

/-- R75: MKREQ gives the status and the bytes of PACK followed by ENCODE of a packet that is zero but for the header
and the transmit timestamp. -/
def Obligations.MkreqIsPackThenEncode : Prop :=
  ∀ (l v m : Byte) (now : Instant),
    (responseOf (.pack l v m) = some (.error .invalidArgument) ∧
      responseOf (.mkreq l v m now) = some (.error .invalidArgument)) ∨
    ∃ h b, responseOf (.pack l v m) = some (.ok (.pack h)) ∧
      responseOf (.encode { Packet.blank with hdr := h, xmtTs := ⟨true, now⟩ }) = some (.ok (.encode b)) ∧
      responseOf (.mkreq l v m now) = some (.ok (.mkreq b))

/-- R135: for a `now` in the wire range, the instant given to MKREQ, FROMWIRE of bytes 40 to 47 of the request, and
the originate timestamp of a reply that echoes those bytes are the same instant. -/
def Obligations.RequestTransmitTimeIsT1 : Prop :=
  ∀ (l v m : Byte) (now : Instant), l.toNat ≤ 3 → v.toNat ≤ 7 → m.toNat ≤ 7 → now.inWireRange = true →
    ∃ b, responseOf (.mkreq l v m now) = some (.ok (.mkreq b)) ∧
      (∃ t, responseOf (.fromwire (memRead b 40 4) (memRead b 44 4)) = some (.ok (.fromwire t)) ∧ t.instant = now) ∧
      (∀ reply : Buf48, (∀ i (hi : i < 8), reply[24 + i] = b[40 + i]) →
        ∃ p, responseOf (.decode 48 reply) = some (.ok (.decode p)) ∧ p.orgTs.instant = now)

/-- R28: whenever FROMWIRE or DECODE reports a timestamp absent, its instant part is driven to the conversion of the
all-zero field. -/
def Obligations.AbsentResultsDriveEpoch : Prop :=
  (∀ sec frac, ∃ t, responseOf (.fromwire sec frac) = some (.ok (.fromwire t)) ∧
    (t.present = false → t.instant = 0x17C55818000000000#65)) ∧
  (∀ b : Buf48, ∃ p, responseOf (.decode 48 b) = some (.ok (.decode p)) ∧
    ∀ t ∈ [p.refTs, p.orgTs, p.recTs, p.xmtTs], t.present = false → t.instant = 0x17C55818000000000#65)

/-! ### OffsetCalculator -/

/-- R142 with R141: DELAY, its encoding, its exact result and its one error. -/
def Obligations.DelayComputes : Prop :=
  (∀ c : CmdPorts, c.op = 0b0110#4 → decode c = .delay c.t1 c.t2 c.t3 c.t4) ∧
  ∀ (t1 t2 t3 t4 : OptInstant) (s : State),
    (t1.present = true ∧ t2.present = true ∧ t3.present = true ∧ t4.present = true →
      ∃ ms : Millis, exec (.delay t1 t2 t3 t4) s = .next { s with rsp := some (.ok (.delay ms)) } ∧
        ms.toInt = ((t4.instant.toInt - t1.instant.toInt) - (t3.instant.toInt - t2.instant.toInt)) * 1000) ∧
    (t1.present = false ∨ t2.present = false ∨ t3.present = false ∨ t4.present = false →
      exec (.delay t1 t2 t3 t4) s = .next { s with rsp := some (.error .missingTimestamp) })

/-- R143 with R141: OFFSET, its encoding, its exact result, with the halving stated as a doubling, and its one
error. -/
def Obligations.OffsetComputes : Prop :=
  (∀ c : CmdPorts, c.op = 0b0111#4 → decode c = .offset c.t1 c.t2 c.t3 c.t4) ∧
  ∀ (t1 t2 t3 t4 : OptInstant) (s : State),
    (t1.present = true ∧ t2.present = true ∧ t3.present = true ∧ t4.present = true →
      ∃ ms : Millis, exec (.offset t1 t2 t3 t4) s = .next { s with rsp := some (.ok (.offset ms)) } ∧
        ms.toInt = ((t2.instant.toInt - t1.instant.toInt) + (t3.instant.toInt - t4.instant.toInt)) * 500 ∧
        2 * ms.toInt = ((t2.instant.toInt - t1.instant.toInt) + (t3.instant.toInt - t4.instant.toInt)) * 1000) ∧
    (t1.present = false ∨ t2.present = false ∨ t3.present = false ∨ t4.present = false →
      exec (.offset t1 t2 t3 t4) s = .next { s with rsp := some (.error .missingTimestamp) })

/-- R147: the bounds of the differences, of the two sums and of the two results, and that both fit 77 bits. -/
def Obligations.CalculatorBounds : Prop :=
  ∀ a b c d : Instant,
    (-(2 ^ 65 - 1) ≤ a.toInt - b.toInt ∧ a.toInt - b.toInt ≤ 2 ^ 65 - 1) ∧
    ∃ md mo : Millis,
      responseOf (.delay ⟨true, a⟩ ⟨true, b⟩ ⟨true, c⟩ ⟨true, d⟩) = some (.ok (.delay md)) ∧
      responseOf (.offset ⟨true, a⟩ ⟨true, b⟩ ⟨true, c⟩ ⟨true, d⟩) = some (.ok (.offset mo)) ∧
      (-(2 ^ 66 - 2) ≤ (d.toInt - a.toInt) - (c.toInt - b.toInt) ∧
        (d.toInt - a.toInt) - (c.toInt - b.toInt) ≤ 2 ^ 66 - 2) ∧
      (-(2 ^ 66 - 2) ≤ (b.toInt - a.toInt) + (c.toInt - d.toInt) ∧
        (b.toInt - a.toInt) + (c.toInt - d.toInt) ≤ 2 ^ 66 - 2) ∧
      md.toInt = ((d.toInt - a.toInt) - (c.toInt - b.toInt)) * 1000 ∧
      mo.toInt = ((b.toInt - a.toInt) + (c.toInt - d.toInt)) * 500 ∧
      (-(1000 * (2 ^ 66 - 2)) ≤ md.toInt ∧ md.toInt ≤ 1000 * (2 ^ 66 - 2)) ∧
      (-(2 ^ 75) < mo.toInt ∧ mo.toInt < 2 ^ 75) ∧ (1000 * (2 ^ 66 - 2) : Int) < 2 ^ 76

/-- R148: the identities (a) to (d), each under the premise that the operands it shifts by `n` (written with a prime)
stay in range. -/
def Obligations.CalculatorIdentities : Prop :=
  (∀ (a b c d a' b' c' d' : Instant) (n : Int),
    a'.toInt = a.toInt + n → b'.toInt = b.toInt + n → c'.toInt = c.toInt + n → d'.toInt = d.toInt + n →
    responseOf (.delay ⟨true, a'⟩ ⟨true, b'⟩ ⟨true, c'⟩ ⟨true, d'⟩) =
      responseOf (.delay ⟨true, a⟩ ⟨true, b⟩ ⟨true, c⟩ ⟨true, d⟩) ∧
    responseOf (.offset ⟨true, a'⟩ ⟨true, b'⟩ ⟨true, c'⟩ ⟨true, d'⟩) =
      responseOf (.offset ⟨true, a⟩ ⟨true, b⟩ ⟨true, c⟩ ⟨true, d⟩)) ∧
  (∀ (a b c d a' d' : Instant) (n : Int), a'.toInt = a.toInt + n → d'.toInt = d.toInt + n →
    responseOf (.delay ⟨true, a'⟩ ⟨true, b⟩ ⟨true, c⟩ ⟨true, d'⟩) =
      responseOf (.delay ⟨true, a⟩ ⟨true, b⟩ ⟨true, c⟩ ⟨true, d⟩) ∧
    ∃ m m' : Millis,
      responseOf (.offset ⟨true, a⟩ ⟨true, b⟩ ⟨true, c⟩ ⟨true, d⟩) = some (.ok (.offset m)) ∧
      responseOf (.offset ⟨true, a'⟩ ⟨true, b⟩ ⟨true, c⟩ ⟨true, d'⟩) = some (.ok (.offset m')) ∧
      m'.toInt = m.toInt - n * 1000) ∧
  (∀ (a b c d b' c' : Instant) (n : Int), b'.toInt = b.toInt + n → c'.toInt = c.toInt + n →
    responseOf (.delay ⟨true, a⟩ ⟨true, b'⟩ ⟨true, c'⟩ ⟨true, d⟩) =
      responseOf (.delay ⟨true, a⟩ ⟨true, b⟩ ⟨true, c⟩ ⟨true, d⟩) ∧
    ∃ m m' : Millis,
      responseOf (.offset ⟨true, a⟩ ⟨true, b⟩ ⟨true, c⟩ ⟨true, d⟩) = some (.ok (.offset m)) ∧
      responseOf (.offset ⟨true, a⟩ ⟨true, b'⟩ ⟨true, c'⟩ ⟨true, d⟩) = some (.ok (.offset m')) ∧
      m'.toInt = m.toInt + n * 1000) ∧
  (∀ a b c d : Instant, ∃ md mo : Millis,
    responseOf (.delay ⟨true, a⟩ ⟨true, b⟩ ⟨true, c⟩ ⟨true, d⟩) = some (.ok (.delay md)) ∧
    responseOf (.offset ⟨true, a⟩ ⟨true, b⟩ ⟨true, c⟩ ⟨true, d⟩) = some (.ok (.offset mo)) ∧
    md.toInt + 2 * mo.toInt = 2000 * (b.toInt - a.toInt) ∧ md.toInt - 2 * mo.toInt = 2000 * (d.toInt - c.toInt))

/-- R203 (c): past the wrap, T2 and T3 that went over the wire come back 2^64 units low; DELAY is unharmed, OFFSET is
2^32 s too low, and moving T1 and T4 down by the same 2^64 units makes OFFSET right. -/
def Obligations.EraStraddleShiftsOffset : Prop :=
  ∀ a b c d a' d' : Instant, 2085978496 * 2 ^ 32 < b.toInt → 2085978496 * 2 ^ 32 < c.toInt →
    a'.toInt = a.toInt - 2 ^ 64 → d'.toInt = d.toInt - 2 ^ 64 →
    ∃ sb fb sc fc u w, ∃ right wrong : Millis,
      responseOf (.towire ⟨true, b⟩) = some (.ok (.towire sb fb)) ∧
      responseOf (.fromwire sb fb) = some (.ok (.fromwire u)) ∧
      responseOf (.towire ⟨true, c⟩) = some (.ok (.towire sc fc)) ∧
      responseOf (.fromwire sc fc) = some (.ok (.fromwire w)) ∧
      responseOf (.delay ⟨true, a⟩ u w ⟨true, d⟩) = responseOf (.delay ⟨true, a⟩ ⟨true, b⟩ ⟨true, c⟩ ⟨true, d⟩) ∧
      responseOf (.offset ⟨true, a⟩ ⟨true, b⟩ ⟨true, c⟩ ⟨true, d⟩) = some (.ok (.offset right)) ∧
      responseOf (.offset ⟨true, a⟩ u w ⟨true, d⟩) = some (.ok (.offset wrong)) ∧
      wrong.toInt = right.toInt - 2 ^ 64 * 1000 ∧
      responseOf (.offset ⟨true, a'⟩ u w ⟨true, d'⟩) = some (.ok (.offset right))

/-! ### Errors -/

/-- R161: the four errors, each with exactly its cause. -/
def Obligations.ErrorCauses : Prop :=
  ∀ i : Instr,
    (responseOf i = some (.error .invalidArgument) ↔
      ∃ l v m : Byte, (i = .pack l v m ∨ ∃ now, i = .mkreq l v m now) ∧
        (3 < l.toNat ∨ 7 < v.toNat ∨ 7 < m.toNat)) ∧
    (responseOf i = some (.error .formatError) ↔ ∃ len b, i = .decode len b ∧ len.toNat < 48) ∧
    (responseOf i = some (.error .missingTimestamp) ↔
      ∃ t1 t2 t3 t4, (i = .delay t1 t2 t3 t4 ∨ i = .offset t1 t2 t3 t4) ∧
        (t1.present = false ∨ t2.present = false ∨ t3.present = false ∨ t4.present = false)) ∧
    (responseOf i = some (.error .illegalOp) ↔ 9 ≤ i.code.toNat)

/-- R168: a reserved code gives ILLEGAL_OP whatever else stands on the ports; any other code can give only the one
error of its operation. -/
def Obligations.ErrorPriority : Prop :=
  ∀ c : CmdPorts,
    (9 ≤ c.op.toNat → responseOf (decode c) = some (.error .illegalOp)) ∧
    (∀ e, c.op.toNat < 9 → responseOf (decode c) = some (.error e) →
      (c.op = 0 ∨ c.op = 8) ∧ e = .invalidArgument ∨ c.op = 5 ∧ e = .formatError ∨
      (c.op = 6 ∨ c.op = 7) ∧ e = .missingTimestamp)

/-- R62, on which the model departs from one of its sentences (notes/assumptions/6.md): a reserved code is accepted
like any other and answered with ILLEGAL_OP and no result, its operand ports ignored. -/
def Obligations.ReservedCodesAnswerIllegalOp : Prop :=
  (∀ (c : CmdPorts) (s : State), 9 ≤ c.op.toNat →
    exec (decode c) s = .next { s with rsp := some (.error .illegalOp) }) ∧
  (∀ (i : Instr) (s : State),
    i ∈ [Instr.reserved9, .reserved10, .reserved11, .reserved12, .reserved13, .reserved14, .reserved15] →
    exec i s = .next { s with rsp := some (.error .illegalOp) }) ∧
  (∀ s : State, 9 ≤ s.pins.cmd.op.toNat → s.pins.rst = false → s.pins.cmdValid = true → s.busy = false →
    s.accepts = true)

/-- R166: raising an error changes the presented response and nothing else; that response carries the error's code
and no result; the edge that follows leads to the same state as after a success; and when that edge delivers the
errored response (`rst` low), it leaves the block idle, with no command in flight and no response, and ready. -/
def Obligations.ErrorLeavesNoTrace : Prop :=
  (∀ (e : OpError) (s : State), raiseError e s = .next { s with rsp := some (.error e) } ∧
    (Response.error e).status = e.code ∧ (Response.error e).result = none ∧ e.code ≠ 0) ∧
  (∀ (s : State) (e : OpError) (x : Result), s.busy = true → s.pins.rspReady = true →
    step { s with rsp := some (.error e) } = step { s with rsp := some (.ok x) }) ∧
  (∀ (s : State) (e : OpError), s.busy = true → s.rsp = some (.error e) → s.pins.rst = false →
    s.pins.rspReady = true →
    s.delivers = true ∧ ∃ t, step s = .next t ∧ t.latch = none ∧ t.rsp = none ∧ t.busy = false ∧
      t.rspValid = false ∧ (t.pins.rst = false → t.cmdReady = true))

/-- R72: the five status codes; 5 to 7 are never produced. -/
def Obligations.StatusCodes : Prop :=
  (∀ x : Result, (Response.ok x).status = 0b000#3) ∧
  (Response.error .invalidArgument).status = 0b001#3 ∧ (Response.error .formatError).status = 0b010#3 ∧
  (Response.error .missingTimestamp).status = 0b011#3 ∧ (Response.error .illegalOp).status = 0b100#3 ∧
  ∀ r : Response, r.status.toNat ≤ 4

/-! ### Encoding -/

/-- R60, R61, R26: decoding an encoded command gives it back, with every operand at every value; and encoding a
decoded port sample gives back its code and every operand port the operation lists. -/
def Obligations.DecodeEncodeAgree : Prop :=
  (∀ i : Instr, i.wellFormed = true → decode (encode i) = i ∧ (encode i).op = i.code) ∧
  (∀ c : CmdPorts, agreeOnListed (encode (decode c)) c ∧ (decode c).code = c.op ∧ (decode c).wellFormed = true)

/-- R61, R62: the sixteen values of `cmd_op`, as words of the operation table, decode to their sixteen rows. That the
operand ports such a word leaves out are low is the model's choice (notes/assumptions/5.md). A sanity statement. -/
def Obligations.TableWordsDecode : Prop :=
  decodeTableWord 8 0b0000 = some (.pack 0 0 0) ∧ decodeTableWord 8 0b0001 = some (.unpack 0) ∧
  decodeTableWord 8 0b0010 = some (.towire .none) ∧ decodeTableWord 8 0b0011 = some (.fromwire 0 0) ∧
  decodeTableWord 8 0b0100 = some (.encode .blank) ∧ decodeTableWord 8 0b0101 = some (.decode 0 .zero) ∧
  decodeTableWord 8 0b0110 = some (.delay .none .none .none .none) ∧
  decodeTableWord 8 0b0111 = some (.offset .none .none .none .none) ∧
  decodeTableWord 8 0b1000 = some (.mkreq 0 0 0 0) ∧ decodeTableWord 8 0b1001 = some .reserved9 ∧
  decodeTableWord 8 0b1010 = some .reserved10 ∧ decodeTableWord 8 0b1011 = some .reserved11 ∧
  decodeTableWord 8 0b1100 = some .reserved12 ∧ decodeTableWord 8 0b1101 = some .reserved13 ∧
  decodeTableWord 8 0b1110 = some .reserved14 ∧ decodeTableWord 8 0b1111 = some .reserved15
end

