-- ==== Sys2Proof/Laws/Buffer.lean ====
section
/-! SUPPORT. The laws of the packet buffer's two primitives (20_memory.md rules R42 to R44): which byte a write
puts where, what a read sees after it, and how a field is made of its bytes. -/

namespace Sys2Proof.Machine

theorem memWriteBytes_getElem (b : Buf48) (k n : Nat) (v : BitVec (8 * n)) (m : Nat) (h : k + m ≤ 48)
    (j : Nat) (hj : j < 48) :
    (memWriteBytes b k n v m h)[j] =
      if k ≤ j ∧ j < k + m then v.extractLsb' (8 * (n - 1 - (j - k))) 8 else b[j] := by
  induction m with
  | zero => rw [memWriteBytes, if_neg (by omega)]
  | succ m ih =>
    rw [memWriteBytes, Vector.getElem_set, ih]
    by_cases hjm : k + m = j
    · subst hjm
      rw [if_pos rfl, if_pos (by omega)]
      congr 2
      omega
    · rw [if_neg hjm]
      by_cases hin : k ≤ j ∧ j < k + m
      · rw [if_pos hin, if_pos (by omega)]
      · rw [if_neg hin, if_neg (by omega)]

/-- R44: a write puts the field's bytes at its offsets and leaves every other offset alone. -/
theorem memWrite_getElem (b : Buf48) (k n : Nat) (v : BitVec (8 * n)) (h : k + n ≤ 48) (j : Nat)
    (hj : j < 48) :
    (memWrite b k n v h)[j] =
      if k ≤ j ∧ j < k + n then v.extractLsb' (8 * (n - 1 - (j - k))) 8 else b[j] :=
  memWriteBytes_getElem b k n v n h j hj

theorem memWrite_getElem_in (b : Buf48) (k n : Nat) (v : BitVec (8 * n)) (h : k + n ≤ 48) (i : Nat)
    (hi : i < n) (hj : k + i < 48) :
    (memWrite b k n v h)[k + i] = v.extractLsb' (8 * (n - 1 - i)) 8 := by
  rw [memWrite_getElem, if_pos (by omega), Nat.add_sub_cancel_left]

theorem memWrite_getElem_out (b : Buf48) (k n : Nat) (v : BitVec (8 * n)) (h : k + n ≤ 48) (j : Nat)
    (hj : j < 48) (hout : j < k ∨ k + n ≤ j) : (memWrite b k n v h)[j] = b[j] := by
  rw [memWrite_getElem, if_neg (by omega)]

/-- R134: clearing zeroes its offsets and leaves every other offset alone. -/
theorem memClear_getElem (b : Buf48) (k n : Nat) (h : k + n ≤ 48) (j : Nat) (hj : j < 48) :
    (memClear b k n h)[j] = if k ≤ j ∧ j < k + n then 0 else b[j] := by
  induction n with
  | zero => rw [memClear, if_neg (by omega)]
  | succ n ih =>
    rw [memClear, memWrite_getElem, ih]
    by_cases hjn : j = k + n
    · subst hjn
      rw [if_pos (by omega), if_pos (by omega)]
      simp
    · rw [if_neg (by omega)]
      by_cases hin : k ≤ j ∧ j < k + n
      · rw [if_pos hin, if_pos (by omega)]
      · rw [if_neg hin, if_neg (by omega)]

/-- A field read is decided by its own bytes. -/
theorem memRead_congr (a b : Buf48) (k n : Nat) (h : k + n ≤ 48)
    (hab : ∀ i (hi : i < n), a[k + i]'(by omega) =
      b[k + i]'(by omega)) :
    memRead a k n h = memRead b k n h := by
  induction n with
  | zero => rfl
  | succ n ih =>
    simp only [memRead]
    rw [ih (by omega) (fun i hi => hab i (Nat.lt_succ_of_lt hi)), hab n (Nat.lt_succ_self n)]

/-- R43: the byte at the lowest offset is the most significant. -/
theorem memRead_succ_toNat (b : Buf48) (k n : Nat) (h : k + (n + 1) ≤ 48) :
    (memRead b k (n + 1) h).toNat =
      (memRead b k n (by omega)).toNat * 2 ^ 8 + (b[k + n]'(by omega)).toNat := by
  simp only [memRead]
  rw [BitVec.toNat_append, ← Nat.shiftLeft_add_eq_or_of_lt (b[k + n]'(by omega)).isLt, Nat.shiftLeft_eq]

theorem memRead_memWrite_prefix (b : Buf48) (k n : Nat) (v : BitVec (8 * n)) (h : k + n ≤ 48) (m : Nat)
    (hm : m ≤ n) :
    memRead (memWrite b k n v h) k m (by omega) =
      v.extractLsb' (8 * (n - m)) (8 * m) := by
  induction m with
  | zero => exact Subsingleton.elim (α := BitVec 0) _ _
  | succ m ih =>
    simp only [memRead]
    rw [ih (Nat.le_of_succ_le hm), memWrite_getElem_in b k n v h m hm (by omega)]
    apply BitVec.eq_of_getLsbD_eq
    intro i hi
    rw [BitVec.getLsbD_append]
    refine Eq.trans ?_ (BitVec.getLsbD_extractLsb' (8 * (n - (m + 1))) (8 * (m + 1)) v i).symm
    rw [decide_eq_true (show i < 8 * (m + 1) from hi)]
    by_cases h8 : i < 8
    · rw [if_pos h8, BitVec.getLsbD_extractLsb', decide_eq_true h8]
      congr 2
      omega
    · rw [if_neg h8, BitVec.getLsbD_extractLsb', decide_eq_true (show i - 8 < 8 * m by omega)]
      congr 2
      omega

/-- A read after a write to the same field gives the value written. -/
theorem memRead_memWrite_same (b : Buf48) (k n : Nat) (v : BitVec (8 * n)) (h : k + n ≤ 48) :
    memRead (memWrite b k n v h) k n h = v := by
  have := memRead_memWrite_prefix b k n v h n (Nat.le_refl n)
  rw [this]
  simp

/-- A write leaves a field outside its offsets alone. -/
theorem memRead_memWrite_other (b : Buf48) (k n : Nat) (v : BitVec (8 * n)) (h : k + n ≤ 48)
    (k' n' : Nat) (h' : k' + n' ≤ 48) (hd : k' + n' ≤ k ∨ k + n ≤ k') :
    memRead (memWrite b k n v h) k' n' h' = memRead b k' n' h' :=
  memRead_congr _ _ _ _ _ fun i _ => memWrite_getElem_out b k n v h (k' + i) (by omega) (by omega)

/-- R42: byte `i` of a field read from the buffer is the buffer's byte. -/
theorem memRead_byte (b : Buf48) (k n : Nat) (h : k + n ≤ 48) (i : Nat) (hi : i < n) (hk : k + i < 48) :
    (memRead b k n h).extractLsb' (8 * (n - 1 - i)) 8 = b[k + i] := by
  induction n with
  | zero => omega
  | succ n ih =>
    simp only [memRead]
    apply BitVec.eq_of_getLsbD_eq
    intro j hj
    rw [BitVec.getLsbD_extractLsb', BitVec.getLsbD_append]
    simp only [hj, decide_true, Bool.true_and]
    by_cases hin : i = n
    · subst hin
      rw [if_pos (by omega)]
      congr 1
      omega
    · have hb := congrArg (fun w : Byte => w.getLsbD j) (ih (by omega) (by omega))
      simp only [BitVec.getLsbD_extractLsb', hj, decide_true, Bool.true_and] at hb
      rw [if_neg (by omega), ← hb]
      congr 1
      omega

end Sys2Proof.Machine
end

