-- ==== Sys2Proof/Laws/State.lean ====
section
/-! SUPPORT. One lemma per field per update of the state, so that no later proof unfolds a record update. -/

namespace Sys2Proof.Machine

@[simp] theorem State.present_latch (r : Response) (s : State) : (s.present r).latch = s.latch := rfl
@[simp] theorem State.present_rsp (r : Response) (s : State) : (s.present r).rsp = some r := rfl
@[simp] theorem State.present_wait (r : Response) (s : State) : (s.present r).wait = s.wait := rfl
@[simp] theorem State.present_accepted (r : Response) (s : State) : (s.present r).accepted = s.accepted := rfl
@[simp] theorem State.present_inputs (r : Response) (s : State) : (s.present r).inputs = s.inputs := rfl

@[simp] theorem State.advance_latch (s : State) : s.advance.latch = s.latch := rfl
@[simp] theorem State.advance_rsp (s : State) : s.advance.rsp = s.rsp := rfl
@[simp] theorem State.advance_wait (s : State) : s.advance.wait = s.wait := rfl
@[simp] theorem State.advance_accepted (s : State) : s.advance.accepted = s.accepted := rfl
@[simp] theorem State.advance_inputs (s : State) : s.advance.inputs = s.inputs.tail := rfl

@[simp] theorem State.toIdle_latch (s : State) : s.toIdle.latch = none := rfl
@[simp] theorem State.toIdle_rsp (s : State) : s.toIdle.rsp = none := rfl
@[simp] theorem State.toIdle_wait (s : State) : s.toIdle.wait = 0 := rfl
@[simp] theorem State.toIdle_accepted (s : State) : s.toIdle.accepted = s.accepted := rfl
@[simp] theorem State.toIdle_inputs (s : State) : s.toIdle.inputs = s.inputs := rfl

@[simp] theorem State.accept_latch (c : CmdPorts) (s : State) : (s.accept c).latch = some c := rfl
@[simp] theorem State.accept_rsp (c : CmdPorts) (s : State) : (s.accept c).rsp = none := rfl
@[simp] theorem State.accept_wait (c : CmdPorts) (s : State) : (s.accept c).wait = Config.respWait s.accepted c := rfl
@[simp] theorem State.accept_accepted (c : CmdPorts) (s : State) : (s.accept c).accepted = s.accepted + 1 := rfl
@[simp] theorem State.accept_inputs (c : CmdPorts) (s : State) : (s.accept c).inputs = s.inputs := rfl

@[simp] theorem State.deliver_latch (s : State) : s.deliver.latch = none := rfl
@[simp] theorem State.deliver_rsp (s : State) : s.deliver.rsp = none := rfl
@[simp] theorem State.deliver_wait (s : State) : s.deliver.wait = s.wait := rfl
@[simp] theorem State.deliver_accepted (s : State) : s.deliver.accepted = s.accepted := rfl
@[simp] theorem State.deliver_inputs (s : State) : s.deliver.inputs = s.inputs := rfl

@[simp] theorem State.keepWaiting_latch (w : Nat) (s : State) : (s.keepWaiting w).latch = s.latch := rfl
@[simp] theorem State.keepWaiting_rsp (w : Nat) (s : State) : (s.keepWaiting w).rsp = s.rsp := rfl
@[simp] theorem State.keepWaiting_wait (w : Nat) (s : State) : (s.keepWaiting w).wait = w := rfl
@[simp] theorem State.keepWaiting_accepted (w : Nat) (s : State) : (s.keepWaiting w).accepted = s.accepted := rfl
@[simp] theorem State.keepWaiting_inputs (w : Nat) (s : State) : (s.keepWaiting w).inputs = s.inputs := rfl

@[simp] theorem State.withFetchWord_latch (s : State) (nbits w : Nat) :
    (s.withFetchWord nbits w).latch = some (CmdPorts.ofTableWord nbits w) := rfl
@[simp] theorem State.withFetchWord_rsp (s : State) (nbits w : Nat) : (s.withFetchWord nbits w).rsp = none := rfl
@[simp] theorem State.withFetchWord_wait (s : State) (nbits w : Nat) : (s.withFetchWord nbits w).wait = 0 := rfl
@[simp] theorem State.withFetchWord_accepted (s : State) (nbits w : Nat) :
    (s.withFetchWord nbits w).accepted = s.accepted := rfl
@[simp] theorem State.withFetchWord_inputs (s : State) (nbits w : Nat) :
    (s.withFetchWord nbits w).inputs = releaseReset s.inputs := rfl

@[simp] theorem State.withFetchWord_rst (s : State) (nbits w : Nat) :
    (s.withFetchWord nbits w).pins.rst = false := by
  cases h : s.inputs <;> simp [State.pins, releaseReset, h, Pins.quiet]

/-! ### The views of the state, after each update -/

@[simp] theorem State.present_pins (r : Response) (s : State) : (s.present r).pins = s.pins := rfl
@[simp] theorem State.present_busy (r : Response) (s : State) : (s.present r).busy = s.busy := rfl
@[simp] theorem State.present_rspValid (r : Response) (s : State) : (s.present r).rspValid = true := rfl
@[simp] theorem State.advance_busy (s : State) : s.advance.busy = s.busy := rfl
@[simp] theorem State.advance_rspValid (s : State) : s.advance.rspValid = s.rspValid := rfl
@[simp] theorem State.toIdle_pins (s : State) : s.toIdle.pins = s.pins := rfl
@[simp] theorem State.toIdle_busy (s : State) : s.toIdle.busy = false := rfl
@[simp] theorem State.toIdle_rspValid (s : State) : s.toIdle.rspValid = false := rfl
@[simp] theorem State.accept_pins (c : CmdPorts) (s : State) : (s.accept c).pins = s.pins := rfl
@[simp] theorem State.accept_busy (c : CmdPorts) (s : State) : (s.accept c).busy = true := rfl
@[simp] theorem State.accept_rspValid (c : CmdPorts) (s : State) : (s.accept c).rspValid = false := rfl
@[simp] theorem State.deliver_pins (s : State) : s.deliver.pins = s.pins := rfl
@[simp] theorem State.deliver_busy (s : State) : s.deliver.busy = false := rfl
@[simp] theorem State.deliver_rspValid (s : State) : s.deliver.rspValid = false := rfl
@[simp] theorem State.keepWaiting_pins (w : Nat) (s : State) : (s.keepWaiting w).pins = s.pins := rfl
@[simp] theorem State.keepWaiting_busy (w : Nat) (s : State) : (s.keepWaiting w).busy = s.busy := rfl
@[simp] theorem State.keepWaiting_rspValid (w : Nat) (s : State) : (s.keepWaiting w).rspValid = s.rspValid := rfl

theorem State.ext_fields {s t : State} (h₁ : s.latch = t.latch) (h₂ : s.rsp = t.rsp) (h₃ : s.wait = t.wait)
    (h₄ : s.accepted = t.accepted) (h₅ : s.inputs = t.inputs) : s = t := by
  cases s; cases t; simp_all

theorem State.busy_eq_false (s : State) : s.busy = false ↔ s.latch = none := by
  simp [State.busy]

theorem State.rspValid_eq_false (s : State) : s.rspValid = false ↔ s.rsp = none := by
  simp [State.rspValid]

theorem State.cmdReady_eq_true (s : State) : s.cmdReady = true ↔ s.latch = none ∧ s.pins.rst = false := by
  simp [State.cmdReady, State.busy]

theorem State.accepts_eq_true (s : State) :
    s.accepts = true ↔ s.pins.rst = false ∧ s.pins.cmdValid = true ∧ s.latch = none := by
  simp [State.accepts, State.cmdReady, State.busy]
  tauto

theorem State.delivers_eq_true (s : State) :
    s.delivers = true ↔ s.pins.rst = false ∧ (∃ r, s.rsp = some r) ∧ s.pins.rspReady = true := by
  simp [State.delivers, State.rspValid, Option.isSome_iff_exists, and_assoc]

end Sys2Proof.Machine
end

