-- ==== Sys2Proof/Laws/Answer.lean ====
section
/-! SUPPORT. What the two ways of answering a command do, and the facts about the operand forms that the
meanings are built from. -/

namespace Sys2Proof.Machine

/-- A completed command presents its result and changes nothing else. -/
theorem respond_next (x : Result) (s : State) : respond x s = .next { s with rsp := some (.ok x) } := rfl

/-- 60_exceptions.md rule R166: a raised error presents its code and changes nothing else. -/
theorem raiseError_next (e : OpError) (s : State) : raiseError e s = .next { s with rsp := some (.error e) } := rfl

theorem headerInRange_eq_true (l v m : Byte) :
    headerInRange l v m = true ↔ l.toNat ≤ 3 ∧ v.toNat ≤ 7 ∧ m.toNat ≤ 7 := by
  simp only [headerInRange, Bool.and_eq_true, decide_eq_true_eq, and_assoc]

theorem allPresent_eq_true (a b c d : OptInstant) :
    allPresent a b c d = true ↔
      a.present = true ∧ b.present = true ∧ c.present = true ∧ d.present = true := by
  simp [allPresent, and_assoc]

theorem toWire64_absent (t : OptInstant) (h : t.present = false) : toWire64 t = 0 := by
  simp [toWire64, h]

/-- R120: the value of a present instant's wire timestamp. -/
theorem toWire64_toNat (t : OptInstant) (h : t.present = true) :
    ((toWire64 t).toNat : Int) = (t.instant.toInt + Config.epochOffsetRaw) % 2 ^ 64 := by
  simp only [toWire64, h, if_true, BitVec.toNat_ofInt]
  rw [Int.toNat_of_nonneg (Int.emod_nonneg _ (by decide))]
  rfl

/-- R104, R105: the subtraction never leaves the 65-bit range, so the instant is exactly the difference. -/
theorem fromWire64_toInt (w : WireTs) :
    (fromWire64 w).instant.toInt = (w.toNat : Int) - Config.epochOffsetRaw := by
  have hw := w.isLt
  simp only [fromWire64, BitVec.toInt_ofInt, Config.epochOffsetRaw, Config.epochOffset]
  rw [Int.bmod_def]
  split <;> omega

theorem fromWire64_present (w : WireTs) : (fromWire64 w).present = true ↔ w ≠ 0 := by
  simp [fromWire64]

theorem wireOf_toNat (sec frac : BitVec 32) : (wireOf sec frac).toNat = sec.toNat * 2 ^ 32 + frac.toNat := by
  rw [wireOf, BitVec.toNat_append, ← Nat.shiftLeft_add_eq_or_of_lt frac.isLt, Nat.shiftLeft_eq]

theorem wireSec_toNat (w : WireTs) : (wireSec w).toNat = w.toNat / 2 ^ 32 := by
  have hw := w.isLt
  simp only [wireSec, BitVec.extractLsb'_toNat, Nat.shiftRight_eq_div_pow]
  omega

theorem wireFrac_toNat (w : WireTs) : (wireFrac w).toNat = w.toNat % 2 ^ 32 := by
  simp only [wireFrac, BitVec.extractLsb'_toNat, Nat.shiftRight_eq_div_pow]
  omega

end Sys2Proof.Machine
end

