-- ==== Sys2Proof/Laws/Decode.lean ====
section
/-! SUPPORT. The decoder, one lemma per operation select code (30_encoding.md rule R61). -/

namespace Sys2Proof

theorem decode_op0 (c : CmdPorts) (h : c.op = 0) : decode c = .pack c.liRaw c.vnRaw c.modeRaw := by
  simp [decode, h]

theorem decode_op1 (c : CmdPorts) (h : c.op = 1) : decode c = .unpack c.hdr := by
  simp [decode, h]

theorem decode_op2 (c : CmdPorts) (h : c.op = 2) : decode c = .towire c.t := by
  simp [decode, h]

theorem decode_op3 (c : CmdPorts) (h : c.op = 3) : decode c = .fromwire c.sec c.frac := by
  simp [decode, h]

theorem decode_op4 (c : CmdPorts) (h : c.op = 4) : decode c = .encode c.pkt := by
  simp [decode, h]

theorem decode_op5 (c : CmdPorts) (h : c.op = 5) : decode c = .decode c.len c.data := by
  simp [decode, h]

theorem decode_op6 (c : CmdPorts) (h : c.op = 6) : decode c = .delay c.t1 c.t2 c.t3 c.t4 := by
  simp [decode, h]

theorem decode_op7 (c : CmdPorts) (h : c.op = 7) : decode c = .offset c.t1 c.t2 c.t3 c.t4 := by
  simp [decode, h]

theorem decode_op8 (c : CmdPorts) (h : c.op = 8) : decode c = .mkreq c.liRaw c.vnRaw c.modeRaw c.now := by
  simp [decode, h]

theorem decode_op9 (c : CmdPorts) (h : c.op = 9) : decode c = .reserved9 := by
  simp [decode, h]

theorem decode_op10 (c : CmdPorts) (h : c.op = 10) : decode c = .reserved10 := by
  simp [decode, h]

theorem decode_op11 (c : CmdPorts) (h : c.op = 11) : decode c = .reserved11 := by
  simp [decode, h]

theorem decode_op12 (c : CmdPorts) (h : c.op = 12) : decode c = .reserved12 := by
  simp [decode, h]

theorem decode_op13 (c : CmdPorts) (h : c.op = 13) : decode c = .reserved13 := by
  simp [decode, h]

theorem decode_op14 (c : CmdPorts) (h : c.op = 14) : decode c = .reserved14 := by
  simp [decode, h]

theorem decode_op15 (c : CmdPorts) (h : c.op = 15) : decode c = .reserved15 := by
  simp [decode, h]

/-- The sixteen values of `cmd_op`. -/
theorem CmdPorts.op_cases (c : CmdPorts) :
    c.op = 0 ∨ c.op = 1 ∨ c.op = 2 ∨ c.op = 3 ∨ c.op = 4 ∨ c.op = 5 ∨ c.op = 6 ∨ c.op = 7 ∨ c.op = 8 ∨ c.op = 9 ∨
      c.op = 10 ∨ c.op = 11 ∨ c.op = 12 ∨ c.op = 13 ∨ c.op = 14 ∨ c.op = 15 := by
  generalize c.op = x
  revert x
  decide

end Sys2Proof
end

