-- ==== Sys2Proof/Laws/PerInstr.lean ====
section
/-! SUPPORT. Facts proved once per constructor of `Instr`. -/

namespace Sys2Proof.Laws

/-- 30_encoding.md rules R60, R61: a command's encoding carries its operation select code on `cmd_op`, and the
command is well-formed. -/
def OpCode.Statement (i : Instr) : Prop := (encode i).op = i.code ∧ i.wellFormed = true

theorem OpCode.pack (a b c : Byte) : OpCode.Statement (.pack a b c) := ⟨rfl, rfl⟩
theorem OpCode.unpack (a : Byte) : OpCode.Statement (.unpack a) := ⟨rfl, rfl⟩
theorem OpCode.towire (a : OptInstant) : OpCode.Statement (.towire a) := ⟨rfl, rfl⟩
theorem OpCode.fromwire (a b : BitVec 32) : OpCode.Statement (.fromwire a b) := ⟨rfl, rfl⟩
theorem OpCode.encode (a : Packet) : OpCode.Statement (.encode a) := ⟨rfl, rfl⟩
theorem OpCode.decode (a : BitVec 16) (b : Buf48) : OpCode.Statement (.decode a b) := ⟨rfl, rfl⟩
theorem OpCode.delay (a b c d : OptInstant) : OpCode.Statement (.delay a b c d) := ⟨rfl, rfl⟩
theorem OpCode.offset (a b c d : OptInstant) : OpCode.Statement (.offset a b c d) := ⟨rfl, rfl⟩
theorem OpCode.mkreq (a b c : Byte) (d : Instant) : OpCode.Statement (.mkreq a b c d) := ⟨rfl, rfl⟩
theorem OpCode.reserved9 : OpCode.Statement .reserved9 := ⟨rfl, rfl⟩
theorem OpCode.reserved10 : OpCode.Statement .reserved10 := ⟨rfl, rfl⟩
theorem OpCode.reserved11 : OpCode.Statement .reserved11 := ⟨rfl, rfl⟩
theorem OpCode.reserved12 : OpCode.Statement .reserved12 := ⟨rfl, rfl⟩
theorem OpCode.reserved13 : OpCode.Statement .reserved13 := ⟨rfl, rfl⟩
theorem OpCode.reserved14 : OpCode.Statement .reserved14 := ⟨rfl, rfl⟩
theorem OpCode.reserved15 : OpCode.Statement .reserved15 := ⟨rfl, rfl⟩

end Sys2Proof.Laws
end

