-- ==== Sys2Proof/Laws/Step.lean ====
section
/-! SUPPORT. Everything one rising edge can do, said once; the invariants follow from it by cases. -/

namespace Sys2Proof.Machine

theorem step_rst {s : State} (h : s.pins.rst = true) : step s = .next s.toIdle.advance := by
  simp [step, h]

theorem step_accepts {s : State} (h : s.accepts = true) : step s = .next (s.accept s.pins.cmd).advance := by
  have hr := ((State.accepts_eq_true s).1 h).1
  simp [step, h, hr]

theorem not_accepts_of_latch {s : State} {c : CmdPorts} (h : s.latch = some c) : s.accepts = false := by
  simp [State.accepts, State.cmdReady, State.busy, h]

theorem not_delivers_of_rsp {s : State} (h : s.rsp = none) : s.delivers = false := by
  simp [State.delivers, State.rspValid, h]

/-- A command in flight with no edge left to wait is answered: the edge is `exec` of the decoded command. -/
theorem step_answers {s : State} {c : CmdPorts} (hr : s.pins.rst = false) (hl : s.latch = some c)
    (hn : s.rsp = none) (hw : s.wait = 0) : step s = exec (decode c) s.advance := by
  simp [step, hr, not_accepts_of_latch hl, not_delivers_of_rsp hn, hl, hn, hw]

theorem step_waits {s : State} {c : CmdPorts} {w : Nat} (hr : s.pins.rst = false) (hl : s.latch = some c)
    (hn : s.rsp = none) (hw : s.wait = w + 1) : step s = .next (s.keepWaiting w).advance := by
  simp [step, hr, not_accepts_of_latch hl, not_delivers_of_rsp hn, hl, hn, hw]

/-- The six things an edge can do, each with its guard. -/
theorem step_cases {s t : State} (h : step s = .next t) :
    (s.pins.rst = true ∧ t = s.toIdle.advance) ∨
    (s.accepts = true ∧ t = (s.accept s.pins.cmd).advance) ∨
    (s.pins.rst = false ∧ s.accepts = false ∧ s.delivers = true ∧ t = s.deliver.advance) ∨
    (∃ c, s.pins.rst = false ∧ s.latch = some c ∧ s.rsp = none ∧ s.wait = 0 ∧
      exec (decode c) s.advance = .next t) ∨
    (∃ c w, s.pins.rst = false ∧ s.latch = some c ∧ s.rsp = none ∧ s.wait = w + 1 ∧
      t = (s.keepWaiting w).advance) ∨
    (s.pins.rst = false ∧ s.accepts = false ∧ s.delivers = false ∧ (s.latch = none ∨ s.rsp ≠ none) ∧
      t = s.advance) := by
  unfold step at h
  cases hr : s.pins.rst <;> cases ha : s.accepts <;> cases hd : s.delivers <;>
    simp only [hr, ha, hd, if_true, if_false, Bool.false_eq_true, Host.Outcome.next.injEq] at h
  · split at h
    · next c hl hn hw => exact .inr (.inr (.inr (.inl ⟨c, rfl, hl, hn, hw, h⟩)))
    · next c w hl hn hw =>
      simp only [Host.Outcome.next.injEq] at h
      exact .inr (.inr (.inr (.inr (.inl ⟨c, w, rfl, hl, hn, hw, h.symm⟩))))
    · next h1 h2 =>
      simp only [Host.Outcome.next.injEq] at h
      refine .inr (.inr (.inr (.inr (.inr ⟨rfl, rfl, rfl, ?_, h.symm⟩))))
      cases hl : s.latch with
      | none => exact .inl rfl
      | some c =>
        refine .inr fun hn => ?_
        cases hw : s.wait with
        | zero => exact h1 c hl hn hw
        | succ w => exact h2 c w hl hn hw
  · exact .inr (.inr (.inl ⟨rfl, rfl, rfl, h.symm⟩))
  · exact .inr (.inl ⟨rfl, h.symm⟩)
  · exact .inr (.inl ⟨rfl, h.symm⟩)
  all_goals exact .inl ⟨rfl, h.symm⟩

end Sys2Proof.Machine
end

