-- ==== Sys2Proof/Tests/Slice0.lean ====
section
/-! SUPPORT. The model's own tests. Expected values are those of spec/95_test_vectors.md, named by their table (V1 to
V10, P1 to P5, S1 to S8), or of the rule named. The witnesses at the end show that the premises of the obligations
can be met, clause by clause, at boundary values. -/

namespace Sys2Proof.Tests

open Sys2Proof Sys2Proof.Machine

/-! ### Well-formedness: each check refuses an ill-formed term -/

/-- R103 (c): the wrap point is the first instant after the wire range. -/
theorem test_inWireRange_refuses_wrap : Instant.inWireRange 0x07C55818000000000#65 = false := by decide

theorem test_inWireRange_accepts_last : Instant.inWireRange 0x07C55817FFFFFFFFF#65 = true := by decide

/-- R130: present at the protocol epoch is not representable, absent is. -/
theorem test_optInstant_representable_refuses_epoch :
    OptInstant.representable ⟨true, 0x17C55818000000000#65⟩ = false ∧
    OptInstant.representable ⟨false, 0x17C55818000000000#65⟩ = true := by decide

/-- V5's packet: `rec_ts` at the protocol epoch, `xmt_ts` past the wrap, `ref_ts` absent with an arbitrary part. -/
def packetV5 : Packet :=
  { hdr := 0xE3, stratum := 0x10, poll := 0x0A, precision := 0xFA, rootDelay := 0x00010203, rootDisp := 0xFFFE0001,
    refId := 0xDEADBEEF, refTs := ⟨false, 999⟩, orgTs := ⟨true, BitVec.ofInt 65 (-5368709120)⟩,
    recTs := ⟨true, BitVec.ofInt 65 (-9487534653230284800)⟩, xmtTs := ⟨true, 8959209420479266821⟩ }

theorem test_packet_representable_refuses_V5 : packetV5.representable = false := by decide

/-- R175: there is no ill-formed command; a reserved code is one like any other. -/
theorem test_wellFormed_reserved : Instr.wellFormed .reserved12 = true := by decide

/-! ### Decoding: `cmd_op` written out bit by bit from R61 -/

theorem test_decode_pack :
    decode { CmdPorts.blank with op := 0b0000#4, liRaw := 1, vnRaw := 2, modeRaw := 5 } = .pack 1 2 5 := by decide
theorem test_decode_unpack : decode { CmdPorts.blank with op := 0b0001#4, hdr := 0xE3 } = .unpack 0xE3 := by decide
theorem test_decode_towire : decode { CmdPorts.blank with op := 0b0010#4, t := ⟨true, 7⟩ } = .towire ⟨true, 7⟩ := by
  decide
theorem test_decode_fromwire :
    decode { CmdPorts.blank with op := 0b0011#4, sec := 5, frac := 6 } = .fromwire 5 6 := by decide
theorem test_decode_encode : decode { CmdPorts.blank with op := 0b0100#4, pkt := packetV5 } = .encode packetV5 := by
  decide
theorem test_decode_decode :
    decode { CmdPorts.blank with op := 0b0101#4, len := 48 } = .decode 48 Buf48.zero := by decide
theorem test_decode_delay :
    decode { CmdPorts.blank with op := 0b0110#4, t1 := ⟨true, 1⟩, t2 := ⟨true, 2⟩, t3 := ⟨true, 3⟩, t4 := ⟨true, 4⟩ } =
      .delay ⟨true, 1⟩ ⟨true, 2⟩ ⟨true, 3⟩ ⟨true, 4⟩ := by decide
theorem test_decode_offset :
    decode { CmdPorts.blank with op := 0b0111#4, t1 := ⟨true, 1⟩, t2 := ⟨true, 2⟩, t3 := ⟨true, 3⟩, t4 := ⟨true, 4⟩ } =
      .offset ⟨true, 1⟩ ⟨true, 2⟩ ⟨true, 3⟩ ⟨true, 4⟩ := by decide
theorem test_decode_mkreq :
    decode { CmdPorts.blank with op := 0b1000#4, liRaw := 1, vnRaw := 2, modeRaw := 3, now := 4 } = .mkreq 1 2 3 4 := by
  decide
/-- V10: the seven reserved codes, the operand ports ignored. -/
theorem test_decode_reserved :
    [9, 10, 11, 12, 13, 14, 15].map (fun k => decode { CmdPorts.blank with op := k, hdr := 0xFF, len := 3 }) =
      [.reserved9, .reserved10, .reserved11, .reserved12, .reserved13, .reserved14, .reserved15] := by decide

/-- A table word is run by the next step, also right after reset; here MKREQ of zeros, which completes. -/
theorem test_fetchWord_runs :
    (match step (State.reset.withFetchWord 8 0b1000) with
      | .next t => t.rsp.map Response.status
      | _ => none) = some 0 := by decide

/-! ### The nine operations -/

/-- The status of a command's response. -/
def statusOf (i : Instr) : Option (BitVec 3) := (responseOf i).map Response.status

/-- The bytes on the port `data`, `B[0]` first. -/
def bytesOf (i : Instr) : Option (List Byte) := ((responseOf i).bind Response.result).bind fun x => x.dataPort.map (·.toList)

/-- V1. -/
theorem test_pack : responseOf (.pack 1 2 5) = some (.ok (.pack 0x55)) := by decide
theorem test_pack_raises : statusOf (.pack 3 7 8) = some 1 := by decide

/-- V2. -/
theorem test_unpack : responseOf (.unpack 0xE3) = some (.ok (.unpack 3 4 3)) := by decide
theorem test_unpack_low : responseOf (.unpack 0x1C) = some (.ok (.unpack 0 3 4)) := by decide

/-- V3, the floor split of -1.25 s. -/
theorem test_towire_negative :
    responseOf (.towire ⟨true, BitVec.ofInt 65 (-5368709120)⟩) = some (.ok (.towire 0x83AA7E7E 0xC0000000)) := by decide
/-- V3, the wrap of the smallest instant. -/
theorem test_towire_smallest :
    responseOf (.towire ⟨true, 0x10000000000000000#65⟩) = some (.ok (.towire 0x83AA7E80 0)) := by decide

/-- V4, S5: absent, and the instant driven all the same. -/
theorem test_fromwire_zero :
    responseOf (.fromwire 0 0) = some (.ok (.fromwire ⟨false, 0x17C55818000000000#65⟩)) := by decide
/-- V4: the top bit of the seconds is not a sign. -/
theorem test_fromwire_half :
    responseOf (.fromwire 0x80000000 0) = some (.ok (.fromwire ⟨true, 0x1FC55818000000000#65⟩)) := by decide

/-- V5. -/
theorem test_encode_V5 : bytesOf (.encode packetV5) = some
    ([0xE3, 0x10, 0x0A, 0xFA, 0x00, 0x01, 0x02, 0x03, 0xFF, 0xFE, 0x00, 0x01, 0xDE, 0xAD, 0xBE, 0xEF] ++
     [0, 0, 0, 0, 0, 0, 0, 0, 0x83, 0xAA, 0x7E, 0x7E, 0xC0, 0, 0, 0] ++
     [0, 0, 0, 0, 0, 0, 0, 0, 0, 0, 0, 0, 0, 0, 0, 5]) := by decide

/-- P1's reply, as received. -/
def replyP1 : Buf48 :=
  #v[0x24, 0x02, 0x06, 0xEC, 0, 0, 8, 0, 0, 0, 0x10, 0, 0x4C, 0x4F, 0x43, 0x4C,
     0xE8, 0xFE, 0x6F, 0x76, 0, 0, 0, 0, 0xE8, 0xFE, 0x6F, 0x80, 0x40, 0, 0, 0,
     0xE8, 0xFE, 0x6F, 0x80, 0xD0, 0, 0, 0, 0xE8, 0xFE, 0x6F, 0x80, 0xD4, 0, 0, 0]

/-- P1. -/
theorem test_decode_P1 : responseOf (.decode 48 replyP1) = some (.ok (.decode
    { hdr := 0x24, stratum := 2, poll := 6, precision := 0xEC, rootDelay := 0x800, rootDisp := 0x1000,
      refId := 0x4C4F434C, refTs := ⟨true, 0x06553F0F600000000⟩, orgTs := ⟨true, 0x06553F10040000000⟩,
      recTs := ⟨true, 0x06553F100D0000000⟩, xmtTs := ⟨true, 0x06553F100D4000000⟩ })) := by decide
/-- V6, P2. -/
theorem test_decode_short : statusOf (.decode 47 replyP1) = some 2 ∧ statusOf (.decode 65535 replyP1) = some 0 := by
  decide

/-- V8, second row. -/
theorem test_mkreq : bytesOf (.mkreq 0 3 3 7301444404273741824) = some
    ([0x1B] ++ List.replicate 39 0 ++ [0xE8, 0xFE, 0x6F, 0x80, 0x40, 0, 0, 0]) := by decide
theorem test_mkreq_raises : statusOf (.mkreq 4 4 3 0) = some 1 := by decide

/-- V9, negative delay: 10, 10, 12, 11 s. -/
theorem test_delay_negative :
    responseOf (.delay ⟨true, 42949672960⟩ ⟨true, 42949672960⟩ ⟨true, 51539607552⟩ ⟨true, 47244640256⟩) =
      some (.ok (.delay 0x1FFFFFFFFC1800000000#77)) := by decide
/-- V9, the largest delay. -/
theorem test_delay_largest :
    responseOf (.delay ⟨true, 0x10000000000000000⟩ ⟨true, 0x0FFFFFFFFFFFFFFFF⟩ ⟨true, 0x10000000000000000⟩
      ⟨true, 0x0FFFFFFFFFFFFFFFF⟩) = some (.ok (.delay 0x0F9FFFFFFFFFFFFFF830#77)) := by decide

/-- V9, an odd sum keeps its half. -/
theorem test_offset_odd :
    responseOf (.offset ⟨true, 1⟩ ⟨true, 0⟩ ⟨true, 0⟩ ⟨true, 0⟩) = some (.ok (.offset 0x1FFFFFFFFFFFFFFFFE0C#77)) := by
  decide
/-- V9, P3: an absent operand raises whatever its instant part holds. -/
theorem test_offset_missing :
    statusOf (.offset ⟨false, 0x17C55818000000000⟩ ⟨true, 4294967296⟩ ⟨true, 4294967296⟩ ⟨true, 8589934592⟩) =
      some 3 := by decide

/-- V10. -/
theorem test_reserved_illegal_op :
    [Instr.reserved9, .reserved10, .reserved11, .reserved12, .reserved13, .reserved14, .reserved15].map responseOf =
      List.replicate 7 (some (.error .illegalOp)) := by decide

/-! ### The two channels -/

/-- PACK of (0, 4, 3) on the command port. -/
def packSample : CmdPorts := { CmdPorts.blank with op := 0b0000#4, liRaw := 0, vnRaw := 4, modeRaw := 3 }

/-- The same code with every port PACK does not list changed. -/
def packSampleOther : CmdPorts :=
  { packSample with
    hdr := 0xFF, t := ⟨true, 1⟩, sec := 1, frac := 1, pkt := packetV5, len := 1, data := replyP1
    t1 := ⟨true, 1⟩, t2 := ⟨true, 1⟩, t3 := ⟨true, 1⟩, t4 := ⟨true, 1⟩, now := 1 }

/-- A reserved code on the command port. -/
def reservedSample : CmdPorts := { CmdPorts.blank with op := 0b1001#4 }

def offering (c : CmdPorts) : Pins := { Pins.quiet with cmdValid := true, cmd := c }
def taking : Pins := { Pins.quiet with rspReady := true }
def resetting : Pins := { Pins.quiet with rst := true }

/-- Idle, with a command presented. -/
def offered (c : CmdPorts) : State := { State.reset with inputs := [offering c] }

/-- In flight, `w` edges left to wait. -/
def inFlight (w : Nat) (p : List Pins) : State :=
  { State.reset with latch := some packSample, wait := w, accepted := 1, inputs := p }

/-- Answered. -/
def answered (p : List Pins) : State := { inFlight 0 p with rsp := some (.ok (.pack 0x23)) }

/-- R24, R29. -/
theorem test_edge_accepts :
    (match step (offered packSample) with
      | .next t => some (t.latch, t.busy, t.rspValid, t.cmdReady, t.accepted)
      | _ => none) = some (some packSample, true, false, false, 1) := by decide

/-- R210: an edge before the answer, and the edge of the answer. -/
theorem test_edge_waits_then_answers :
    step (inFlight 1 []) = .next (inFlight 0 []) ∧ step (inFlight 0 []) = .next (answered []) := ⟨rfl, rfl⟩

/-- R25: held without `rsp_ready`, delivered with it. -/
theorem test_edge_holds_then_delivers :
    step (answered [offering reservedSample]) = .next (answered []) ∧
    step (answered [taking]) = .next { State.reset with accepted := 1 } := ⟨rfl, rfl⟩

/-- R190, R191. -/
theorem test_edge_resets : step (answered [resetting]) = .next { State.reset with accepted := 1 } := rfl

/-! ### Witnesses: the premises of the obligations can be met -/

theorem inv_answered (p : List Pins) : (answered p).Inv where
  answered := fun r h => ⟨packSample, rfl, by cases h; decide⟩
  idleSettled := fun h => nomatch h
  answerSettled := fun _ => rfl

theorem inv_idle (n : Nat) (p : List Pins) : ({ State.reset with accepted := n, inputs := p } : State).Inv where
  answered := fun _ h => nomatch h
  idleSettled := fun _ => rfl
  answerSettled := fun _ => rfl

theorem inv_inFlight (w : Nat) (p : List Pins) : (inFlight w p).Inv where
  answered := fun _ h => nomatch h
  idleSettled := fun h => nomatch h
  answerSettled := fun h => absurd rfl h

theorem witness_ResetIsIdle :
    State.reset.latch = none ∧ State.reset.rsp = none ∧ State.reset.pins.rst = false ∧
    State.reset.rspValid = false := by decide

theorem witness_RstEntersIdle : (answered [resetting]).pins.rst = true := by decide

theorem witness_ResetDropsCommand :
    (answered [resetting, offering packSample]).latch = some packSample ∧
    (answered [resetting, offering packSample]).pins.rst = true ∧
    (answered [resetting, offering packSample]).toIdle.advance.pins.rst = false ∧
    (answered [resetting, offering packSample]).toIdle.advance.pins.cmdValid = true := by decide

theorem witness_CommandAccepted_accepts : (offered packSample).accepts = true := by decide

theorem witness_CommandAccepted_keeps :
    (answered []).accepts = false ∧ step (answered []) = .next (answered []) := ⟨by decide, rfl⟩

theorem witness_CommandAccepted_agree : agreeOnListed packSample packSampleOther ∧ packSample ≠ packSampleOther := by
  refine ⟨?_, by decide⟩
  constructor <;> decide

theorem witness_ResponseHeldUntilDelivered_held :
    (answered []).Inv ∧ (answered []).rsp = some (.ok (.pack 0x23)) ∧ (answered []).pins.rst = false ∧
    (answered []).pins.rspReady = false := ⟨inv_answered [], by decide, by decide, by decide⟩

theorem witness_ResponseHeldUntilDelivered_taken :
    (answered [taking]).Inv ∧ (answered [taking]).pins.rst = false ∧ (answered [taking]).pins.rspReady = true :=
  ⟨inv_answered _, by decide, by decide⟩

theorem witness_ResultPortsByOperation :
    (Response.ok (.pack 0x23)).result = some (.pack 0x23) ∧ responseOf (decode packSample) = some (.ok (.pack 0x23)) := by
  decide

theorem witness_StepRunsDecodedCommand :
    (inFlight 0 []).pins.rst = false ∧ (inFlight 0 []).latch = some packSample ∧ (inFlight 0 []).rsp = none ∧
    (inFlight 0 []).wait = 0 ∧ decodeTableWord 8 0b0001 = some (.unpack 0) := by decide

theorem witness_AcceptedCommandIsAnswered_accept :
    (offered packSample).accepts = true ∧
    step (offered packSample) = .next ((offered packSample).accept packSample).advance := ⟨by decide, rfl⟩

theorem witness_AcceptedCommandIsAnswered_answer :
    (inFlight 5 [taking]).latch = some packSample ∧ (inFlight 5 [taking]).rsp = none ∧ (inFlight 5 [taking]).noReset :=
  ⟨rfl, rfl, by unfold State.noReset; decide⟩

theorem witness_ResponsesInCommandOrder :
    (answered [taking, offering packSample]).Inv ∧ (answered [taking, offering packSample]).noReset ∧
    (offered packSample).Inv ∧ (offered packSample).accepts = true :=
  ⟨inv_answered _, by unfold State.noReset; decide, inv_idle 0 _, by decide⟩

theorem witness_ResetOnlyLosesResponses :
    (inFlight 0 [Pins.quiet, resetting]).Inv ∧
    history 2 (inFlight 0 [Pins.quiet, resetting]) =
      some { accepted := [], delivered := [], final := { State.reset with accepted := 1 } } :=
  ⟨inv_inFlight 0 _, rfl⟩

theorem witness_OneCommandInFlight_busy :
    (inFlight 1 []).Inv ∧ (inFlight 1 []).busy = true ∧ (inFlight 1 []).pins.rst = false ∧
    step (inFlight 1 []) = .next (inFlight 0 []) := ⟨inv_inFlight 1 [], rfl, rfl, rfl⟩

theorem witness_OneCommandInFlight_idle :
    (offered reservedSample).busy = false ∧ (offered reservedSample).pins.rst = false ∧
    (offered reservedSample).pins.cmdValid = true := by decide

theorem witness_OperandsFreeAfterAcceptance :
    (inFlight 0 []).busy = true ∧ (offering packSample).rst = (offering reservedSample).rst ∧
    (offering packSample).rspReady = (offering reservedSample).rspReady ∧
    step { inFlight 0 [] with inputs := [offering packSample] } = .next (answered []) := ⟨rfl, rfl, rfl, rfl⟩

theorem witness_StepKeepsInv : (inFlight 0 []).Inv ∧ step (inFlight 0 []) = .next (answered []) := ⟨inv_inFlight 0 [], rfl⟩

/-- PACK and MKREQ: the largest operands in range, and the smallest of each out of range. -/
theorem witness_PackBuildsHeader :
    ((3 : Byte).toNat ≤ 3 ∧ (7 : Byte).toNat ≤ 7 ∧ (7 : Byte).toNat ≤ 7) ∧ 3 < (4 : Byte).toNat ∧ 7 < (8 : Byte).toNat ∧
    ({ CmdPorts.blank with op := 0b0000#4 } : CmdPorts).op = 0b0000#4 := by decide

theorem witness_PackUnpackRoundTrip : (3 : Byte).toNat ≤ 3 ∧ (7 : Byte).toNat ≤ 7 ∧ (0 : Byte).toNat ≤ 7 := by decide

theorem witness_encodings :
    ({ CmdPorts.blank with op := 0b0001#4 } : CmdPorts).op = 0b0001#4 ∧
    ({ CmdPorts.blank with op := 0b0010#4 } : CmdPorts).op = 0b0010#4 ∧
    ({ CmdPorts.blank with op := 0b0011#4 } : CmdPorts).op = 0b0011#4 ∧
    ({ CmdPorts.blank with op := 0b0100#4 } : CmdPorts).op = 0b0100#4 ∧
    ({ CmdPorts.blank with op := 0b0101#4 } : CmdPorts).op = 0b0101#4 ∧
    ({ CmdPorts.blank with op := 0b0110#4 } : CmdPorts).op = 0b0110#4 ∧
    ({ CmdPorts.blank with op := 0b0111#4 } : CmdPorts).op = 0b0111#4 ∧
    ({ CmdPorts.blank with op := 0b1000#4 } : CmdPorts).op = 0b1000#4 := by decide

theorem witness_TowireConverts :
    (OptInstant.mk false 5).present = false ∧ (OptInstant.mk true 5).present = true := by decide

/-- R103: both sides of both ends of the wire range, one instant the wrap moves up and one it moves down. -/
theorem witness_TowireWrapsSeconds :
    (0x17C55818000000000#65).toInt = -9487534653230284800 ∧ (0x17C55817FFFFFFFFF#65).toInt = -9487534653230284801 ∧
    (0x07C55817FFFFFFFFF#65).toInt = 2085978496 * 2 ^ 32 - 1 ∧ (0x07C55818000000000#65).toInt = 8959209420479266816 := by
  decide

theorem witness_FromwireRangeAndInjective :
    responseOf (.fromwire 0 1) = some (.ok (.fromwire ⟨true, 0x17C55818000000001#65⟩)) := by decide

/-- R109 (b) to (e): the absent case, the two ends of (c), the collision of (d), and the three regions of (e). -/
theorem witness_TimestampRoundTrips :
    -9487534653230284800 < (0x17C55818000000001#65).toInt ∧ (0x07C55817FFFFFFFFF#65).toInt < 2085978496 * 2 ^ 32 ∧
    (0x17C55818000000000#65).toInt = -9487534653230284800 ∧ (0x17C55817FFFFFFFFF#65).toInt < -9487534653230284800 ∧
    (0x07C55818000000000#65).toInt = 2085978496 * 2 ^ 32 ∧ 2085978496 * 2 ^ 32 < (0x0FFFFFFFFFFFFFFFF#65).toInt := by
  decide

theorem witness_MemReadIsBigEndian : 47 + 1 ≤ 48 ∧ 44 + 4 ≤ 48 ∧ 40 + 8 ≤ 48 ∧ 0 + 8 ≤ 48 := by decide

theorem witness_MemWriteIsBigEndianAndTotal : (40 + 8 ≤ 48 ∧ 7 < 8 ∧ 39 < 40) ∧ (0 + 1 ≤ 48 ∧ 0 < 1 ∧ 0 + 1 ≤ 1) := by
  decide

theorem witness_EncodeLaysOutPacket :
    40 + 8 ≤ 48 ∧ (40, packetV5.xmtTs) ∈
      [(16, packetV5.refTs), (24, packetV5.orgTs), (32, packetV5.recTs), (40, packetV5.xmtTs)] := by decide

theorem witness_DecodeParsesPacket : (47 : BitVec 16).toNat < 48 ∧ 48 ≤ (48 : BitVec 16).toNat := by decide

theorem witness_LongDatagramDecodesFirst48 : 48 ≤ (65535 : BitVec 16).toNat := by decide

theorem witness_BytesBeyondLenIgnored :
    (∀ j (hj : j < 48), j < (1 : BitVec 16).toNat → (replyP1.set 1 0)[j] = replyP1[j]) ∧
    (replyP1.set 1 0)[1] ≠ replyP1[1] := by
  refine ⟨fun j hj h => ?_, by decide⟩
  have h1 : j < 1 := h
  obtain rfl : j = 0 := by omega
  rfl

theorem witness_RequestTransmitTimeIsT1 :
    (0 : Byte).toNat ≤ 3 ∧ (4 : Byte).toNat ≤ 7 ∧ (3 : Byte).toNat ≤ 7 ∧
    Instant.inWireRange 7301444404273741824 = true ∧
    ∀ i (hi : i < 8), replyP1[24 + i] = (writeRequest .zero 0 4 3 7301444404273741824)[40 + i] := by decide

theorem witness_AbsentResultsDriveEpoch :
    (fromWire64 0).present = false ∧ (readPacket .zero).refTs.present = false := by decide

theorem witness_DelayComputes_OffsetComputes :
    allPresent ⟨true, 0⟩ ⟨true, 0⟩ ⟨true, 0⟩ ⟨true, 0⟩ = true ∧ (OptInstant.mk false 0).present = false := by decide

/-- R148: a shift by 5 that keeps the operands in range, up to the largest instant; the same two instants serve as
the other two operands. -/
theorem witness_CalculatorIdentities :
    (5 : Instant).toInt = (0 : Instant).toInt + 5 ∧ (0x0FFFFFFFFFFFFFFFF#65).toInt = (0x0FFFFFFFFFFFFFFFA#65).toInt + 5 := by
  decide

/-- R203 (c): P5's instants past the wrap. -/
theorem witness_EraStraddleShiftsOffset :
    2085978496 * 2 ^ 32 < (0x07C55818440000000#65).toInt ∧
    (0x17C55818400000000#65).toInt = (0x07C55818400000000#65).toInt - 2 ^ 64 ∧
    (0x17C55818480000000#65).toInt = (0x07C55818480000000#65).toInt - 2 ^ 64 := by decide

theorem witness_ErrorPriority :
    9 ≤ reservedSample.op.toNat ∧
    ({ CmdPorts.blank with op := 0b0101#4, len := 47 } : CmdPorts).op.toNat < 9 ∧
    responseOf (decode { CmdPorts.blank with op := 0b0101#4, len := 47 }) = some (.error .formatError) := by decide

theorem witness_ReservedCodesAnswerIllegalOp :
    9 ≤ reservedSample.op.toNat ∧ (offered reservedSample).pins.cmd.op.toNat = 9 ∧
    (offered reservedSample).pins.rst = false ∧ (offered reservedSample).pins.cmdValid = true ∧
    (offered reservedSample).busy = false := by decide

theorem witness_ErrorLeavesNoTrace : (answered [taking]).busy = true ∧ (answered [taking]).pins.rspReady = true := by
  decide

/-- R166: an errored response at the edge that delivers it. -/
def errored : State := { inFlight 0 [taking] with rsp := some (.error .invalidArgument) }

theorem witness_ErrorLeavesNoTrace_delivered :
    errored.busy = true ∧ errored.rsp = some (.error .invalidArgument) ∧ errored.pins.rst = false ∧
    errored.pins.rspReady = true ∧ errored.deliver.advance.pins.rst = false := by decide

theorem witness_DecodeEncodeAgree : (Instr.decode 48 replyP1).wellFormed = true := by decide

end Sys2Proof.Tests
end

section
/-! PROOFS of the scope family (00_scope.md): a command's outcome depends on its operands alone (rule R12). -/

namespace Sys2Proof.Machine

/-- R12, of one meaning: one response that it presents in every state, with the rest of the state unchanged. -/
def AnswersPurely (meaning : State → Host.Outcome State Fault Refusal) : Prop :=
  ∃ r, ∀ s, meaning s = .next { s with rsp := some r }

theorem answersPurely_respond (x : Result) : AnswersPurely (respond x) := ⟨.ok x, respond_next x⟩

theorem answersPurely_raiseError (e : OpError) : AnswersPurely (raiseError e) := ⟨.error e, raiseError_next e⟩

/-- A test that does not read the state keeps purity: it picks the same branch in every state. -/
theorem AnswersPurely.ite {c : Prop} [Decidable c] {m n : State → Host.Outcome State Fault Refusal}
    (hm : AnswersPurely m) (hn : AnswersPurely n) : AnswersPurely fun s => if c then m s else n s := by
  by_cases hc : c
  · simpa only [if_pos hc] using hm
  · simpa only [if_neg hc] using hn

/-- Each operation completes, raises its error, or chooses between the two by a test of its operands. -/
theorem exec_answersPurely (i : Instr) : AnswersPurely (exec i) := by
  cases i with
  | pack | mkreq => exact .ite (answersPurely_respond _) (answersPurely_raiseError .invalidArgument)
  | decode => exact .ite (answersPurely_raiseError .formatError) (answersPurely_respond _)
  | delay | offset => exact .ite (answersPurely_respond _) (answersPurely_raiseError .missingTimestamp)
  | unpack | towire | fromwire | encode => exact answersPurely_respond _
  | reserved9 | reserved10 | reserved11 | reserved12 | reserved13 | reserved14 | reserved15 =>
    exact answersPurely_raiseError .illegalOp

/-- A response that a command presents in every state is the one `responseOf` reads off after reset. -/
theorem responseOf_eq_some {i : Instr} {r : Response} (h : ∀ s, exec i s = .next { s with rsp := some r }) :
    responseOf i = some r := by
  simp only [responseOf, h]

/-- Settles O8: the outcome is a function of the operands, and every meaning presents it and changes nothing else. -/
theorem everyCommandAnswersPurely : Obligations.EveryCommandAnswersPurely := by
  intro i
  obtain ⟨r, hr⟩ := exec_answersPurely i
  exact ⟨r, responseOf_eq_some hr, hr⟩

end Sys2Proof.Machine
end

section
/-! PROOFS of the state family (10_state.md): the response each command has (rule R26), the edges at which a response
stands presented (rule R25), and the invariant that every edge keeps (rule R29). -/

namespace Sys2Proof.Machine

/-! ### The response of each command -/

/-- The two ways to answer, chosen by a test that does not read the state. -/
theorem respond_or_raiseError (c : Prop) [Decidable c] (x : Result) (e : OpError) (s : State) :
    (if c then respond x s else raiseError e s) = .next { s with rsp := some (if c then .ok x else .error e) } := by
  split <;> rfl

theorem responseOf_pack (l v m : Byte) : responseOf (.pack l v m) =
    some (if headerInRange l v m then .ok (.pack (packHeader l v m)) else .error .invalidArgument) :=
  responseOf_eq_some (respond_or_raiseError _ _ _)

theorem responseOf_unpack (h : Byte) :
    responseOf (.unpack h) = some (.ok (.unpack (headerLi h) (headerVn h) (headerMode h))) := rfl

theorem responseOf_towire (t : OptInstant) :
    responseOf (.towire t) = some (.ok (.towire (wireSec (toWire64 t)) (wireFrac (toWire64 t)))) := rfl

theorem responseOf_fromwire (sec frac : BitVec 32) :
    responseOf (.fromwire sec frac) = some (.ok (.fromwire (fromWire64 (wireOf sec frac)))) := rfl

theorem responseOf_encode (p : Packet) : responseOf (.encode p) = some (.ok (.encode (writePacket .zero p))) := rfl

theorem responseOf_decode (n : BitVec 16) (b : Buf48) : responseOf (.decode n b) =
    some (if 48 ≤ n.toNat then .ok (.decode (readPacket b)) else .error .formatError) := by
  refine responseOf_eq_some fun s => ?_
  rw [← respond_or_raiseError, ← ite_not]
  simp only [Nat.not_le]
  rfl

theorem responseOf_delay (a b c d : OptInstant) : responseOf (.delay a b c d) =
    some (if allPresent a b c d then .ok (.delay (delayMillis a.instant b.instant c.instant d.instant))
      else .error .missingTimestamp) :=
  responseOf_eq_some (respond_or_raiseError _ _ _)

theorem responseOf_offset (a b c d : OptInstant) : responseOf (.offset a b c d) =
    some (if allPresent a b c d then .ok (.offset (offsetMillis a.instant b.instant c.instant d.instant))
      else .error .missingTimestamp) :=
  responseOf_eq_some (respond_or_raiseError _ _ _)

theorem responseOf_mkreq (l v m : Byte) (now : Instant) : responseOf (.mkreq l v m now) =
    some (if headerInRange l v m then .ok (.mkreq (writeRequest .zero l v m now)) else .error .invalidArgument) :=
  responseOf_eq_some (respond_or_raiseError _ _ _)

/-- What an answered command did: it presented its own response, and nothing else. -/
theorem exec_eq_next {i : Instr} {s t : State} (h : exec i s = .next t) :
    ∃ r, responseOf i = some r ∧ t = s.present r := by
  obtain ⟨r, hr, hexec⟩ := everyCommandAnswersPurely i
  refine ⟨r, hr, ?_⟩
  rw [hexec s] at h
  exact (Host.Outcome.next.inj h).symm

/-! ### The edges at which a response stands presented -/

theorem step_delivers {s : State} {c : CmdPorts} (hl : s.latch = some c) (hd : s.delivers = true) :
    step s = .next s.deliver.advance := by
  have hr := ((State.delivers_eq_true s).1 hd).1
  simp [step, hr, not_accepts_of_latch hl, hd]

theorem step_holds {s : State} {c : CmdPorts} {r : Response} (hr : s.pins.rst = false) (hl : s.latch = some c)
    (hrsp : s.rsp = some r) (hd : s.delivers = false) : step s = .next s.advance := by
  simp [step, hr, not_accepts_of_latch hl, hd, hl, hrsp]

theorem not_delivers_of_rspReady {s : State} (h : s.pins.rspReady = false) : s.delivers = false := by
  simp [State.delivers, h]

/-! ### The invariant -/

theorem State.inv_of_rsp_none {s : State} (hn : s.rsp = none) (hw : s.latch = none → s.wait = 0) : s.Inv where
  answered r h := by rw [hn] at h; cases h
  idleSettled := hw
  answerSettled h := absurd hn h

/-- The invariant does not look at the host's wires. -/
theorem State.Inv.advance {s : State} (h : s.Inv) : s.advance.Inv := ⟨h.answered, h.idleSettled, h.answerSettled⟩

theorem State.toIdle_inv (s : State) : s.toIdle.Inv := inv_of_rsp_none rfl fun _ => rfl

theorem State.accept_inv (c : CmdPorts) (s : State) : (s.accept c).Inv := inv_of_rsp_none rfl nofun

/-- The presented response that leaves had no edge left to wait. -/
theorem State.Inv.deliver {s : State} (h : s.Inv) (hd : s.delivers = true) : s.deliver.Inv := by
  obtain ⟨-, ⟨r, hrsp⟩, -⟩ := (State.delivers_eq_true s).1 hd
  exact inv_of_rsp_none rfl fun _ => h.answerSettled (by simp [hrsp])

theorem State.keepWaiting_inv {s : State} {c : CmdPorts} (w : Nat) (hl : s.latch = some c) (hn : s.rsp = none) :
    (s.keepWaiting w).Inv :=
  inv_of_rsp_none hn fun h => by rw [keepWaiting_latch, hl] at h; cases h

/-- A response may be presented when it is the latched command's own and no edge is left to wait. -/
theorem State.present_inv {s : State} {c : CmdPorts} {r : Response} (hl : s.latch = some c) (hw : s.wait = 0)
    (hr : responseOf (decode c) = some r) : (s.present r).Inv where
  answered r' h := by
    obtain rfl : r = r' := Option.some.inj h
    exact ⟨c, hl, hr⟩
  idleSettled _ := hw
  answerSettled _ := hw

/-- Settles O15: each of the six things an edge can do keeps the invariant. -/
theorem stepKeepsInv : Obligations.StepKeepsInv := by
  intro s t hs h
  obtain ⟨-, rfl⟩ | ⟨-, rfl⟩ | ⟨-, -, hd, rfl⟩ | ⟨c, -, hl, -, hw, hexec⟩ | ⟨c, w, -, hl, hn, -, rfl⟩ |
    ⟨-, -, -, -, rfl⟩ := step_cases h
  · exact s.toIdle_inv.advance
  · exact (s.accept_inv _).advance
  · exact (hs.deliver hd).advance
  · obtain ⟨r, hr, rfl⟩ := exec_eq_next hexec
    exact State.present_inv hl hw hr
  · exact (State.keepWaiting_inv w hl hn).advance
  · exact hs.advance

/-! ### The command and response channels -/

/-- R24: the decoder looks at the operation select code and the ports listed for it, and at no other port. -/
theorem decode_eq_of_agreeOnListed {c d : CmdPorts} (h : agreeOnListed c d) : decode c = decode d := by
  obtain ⟨hop, pack, unpack, towire, fromwire, encode, dec, calculator, mkreq⟩ := h
  rcases c.op_cases with h | h | h | h | h | h | h | h | h | h | h | h | h | h | h | h
  · obtain ⟨hl, hv, hm⟩ := pack h
    rw [decode_op0 c h, decode_op0 d (hop ▸ h), hl, hv, hm]
  · rw [decode_op1 c h, decode_op1 d (hop ▸ h), unpack h]
  · rw [decode_op2 c h, decode_op2 d (hop ▸ h), towire h]
  · obtain ⟨hs, hf⟩ := fromwire h
    rw [decode_op3 c h, decode_op3 d (hop ▸ h), hs, hf]
  · rw [decode_op4 c h, decode_op4 d (hop ▸ h), encode h]
  · obtain ⟨hn, hb⟩ := dec h
    rw [decode_op5 c h, decode_op5 d (hop ▸ h), hn, hb]
  · obtain ⟨h1, h2, h3, h4⟩ := calculator (.inl h)
    rw [decode_op6 c h, decode_op6 d (hop ▸ h), h1, h2, h3, h4]
  · obtain ⟨h1, h2, h3, h4⟩ := calculator (.inr h)
    rw [decode_op7 c h, decode_op7 d (hop ▸ h), h1, h2, h3, h4]
  · obtain ⟨hl, hv, hm, hn⟩ := mkreq h
    rw [decode_op8 c h, decode_op8 d (hop ▸ h), hl, hv, hm, hn]
  -- a reserved code lists no port
  all_goals simp [decode, ← hop, h]

/-- An edge that accepts no command empties the latch or leaves it alone. -/
theorem step_latch_of_not_accepts {s t : State} (ha : s.accepts = false) (h : step s = .next t) :
    t.latch = none ∨ t.latch = s.latch := by
  obtain ⟨-, rfl⟩ | ⟨ha', -⟩ | ⟨-, -, -, rfl⟩ | ⟨c, -, -, -, -, hexec⟩ | ⟨c, w, -, -, -, -, rfl⟩ |
    ⟨-, -, -, -, rfl⟩ := step_cases h
  · exact .inl rfl
  · rw [ha] at ha'
    cases ha'
  · exact .inl rfl
  · obtain ⟨r, -, rfl⟩ := exec_eq_next hexec
    exact .inr rfl
  · exact .inr rfl
  · exact .inr rfl

/-- Settles O4: the guard of an acceptance, what it latches, and that the decoder ignores the unlisted ports. -/
theorem commandAccepted : Obligations.CommandAccepted := by
  refine ⟨fun s => ?_, fun s ha => ?_, fun s t => step_latch_of_not_accepts, fun c d s h => ?_⟩
  · rw [State.accepts_eq_true, State.cmdReady_eq_true]
    tauto
  · exact ⟨_, step_accepts ha, rfl, rfl, rfl, rfl, rfl⟩
  · rw [decode_eq_of_agreeOnListed h]

/-- Settles O5: by the invariant the latch is full, so the edge can only hold the response or deliver it. -/
theorem responseHeldUntilDelivered : Obligations.ResponseHeldUntilDelivered := by
  intro s r hs hrsp hr
  obtain ⟨c, hl, -⟩ := hs.answered r hrsp
  constructor
  · intro hready
    have hd := not_delivers_of_rspReady hready
    exact ⟨hd, step_holds hr hl hrsp hd⟩
  · intro hready
    have hd := (State.delivers_eq_true s).2 ⟨hr, ⟨r, hrsp⟩, hready⟩
    exact ⟨hd, step_delivers hl hd⟩

/-! ### Result ports and statuses -/

/-- R26, R72, of one response: its result drives exactly `ports`, it is OK exactly when it has a result, and its
status is one of `codes`. -/
def Response.Fits (ports : List Bool) (codes : List (BitVec 3)) (r : Response) : Prop :=
  (∀ x, r.result = some x → x.driven = ports) ∧ (r.status = 0 ↔ r.result ≠ none) ∧ r.status ∈ codes

section

variable {ports : List Bool} {codes : List (BitVec 3)}

theorem Response.fits_ok {x : Result} (hx : x.driven = ports) (h : 0 ∈ codes) : (Response.ok x).Fits ports codes := by
  refine ⟨fun y hy => ?_, ⟨nofun, fun _ => rfl⟩, h⟩
  obtain rfl : x = y := Option.some.inj hy
  exact hx

theorem OpError.code_ne_zero (e : OpError) : e.code ≠ 0 := by cases e <;> decide

theorem Response.fits_error {e : OpError} (h : e.code ∈ codes) : (Response.error e).Fits ports codes :=
  ⟨nofun, ⟨fun h0 => absurd h0 e.code_ne_zero, fun hne => absurd rfl hne⟩, h⟩

theorem Response.fits_ite {c : Prop} [Decidable c] {x : Result} {e : OpError} (hx : x.driven = ports)
    (h0 : 0 ∈ codes) (he : e.code ∈ codes) : (if c then Response.ok x else .error e).Fits ports codes := by
  split
  · exact fits_ok hx h0
  · exact fits_error he

end

/-- Settles O6: the operations that always complete, those that test their operands, and the reserved codes. -/
theorem resultPortsByOperation : Obligations.ResultPortsByOperation := by
  intro c
  rcases c.op_cases with h | h | h | h | h | h | h | h | h | h | h | h | h | h | h | h
  · rw [decode_op0 c h, h]
    exact ⟨_, responseOf_pack .., Response.fits_ite rfl (by decide) (by decide)⟩
  · rw [decode_op1 c h, h]
    exact ⟨_, responseOf_unpack .., Response.fits_ok rfl (by decide)⟩
  · rw [decode_op2 c h, h]
    exact ⟨_, responseOf_towire .., Response.fits_ok rfl (by decide)⟩
  · rw [decode_op3 c h, h]
    exact ⟨_, responseOf_fromwire .., Response.fits_ok rfl (by decide)⟩
  · rw [decode_op4 c h, h]
    exact ⟨_, responseOf_encode .., Response.fits_ok rfl (by decide)⟩
  · rw [decode_op5 c h, h]
    exact ⟨_, responseOf_decode .., Response.fits_ite rfl (by decide) (by decide)⟩
  · rw [decode_op6 c h, h]
    exact ⟨_, responseOf_delay .., Response.fits_ite rfl (by decide) (by decide)⟩
  · rw [decode_op7 c h, h]
    exact ⟨_, responseOf_offset .., Response.fits_ite rfl (by decide) (by decide)⟩
  · rw [decode_op8 c h, h]
    exact ⟨_, responseOf_mkreq .., Response.fits_ite rfl (by decide) (by decide)⟩
  -- a reserved code has no result port and one status
  all_goals
    rw [decode, h]
    exact ⟨.error .illegalOp, rfl, Response.fits_error (by decide)⟩

/-- R28: the all-zero field alone is reported absent, and its instant part is driven. -/
theorem fromWire64_instant_of_absent {w : WireTs} (h : (fromWire64 w).present = false) :
    (fromWire64 w).instant = 0x17C55818000000000#65 := by
  obtain rfl : w = 0 := by
    by_contra hw
    rw [(fromWire64_present w).2 hw] at h
    cases h
  decide

/-- Settles O36: every timestamp that FROMWIRE or DECODE reports is the conversion of a wire field. -/
theorem absentResultsDriveEpoch : Obligations.AbsentResultsDriveEpoch := by
  refine ⟨fun sec frac => ⟨_, responseOf_fromwire sec frac, fromWire64_instant_of_absent⟩, fun b =>
    ⟨_, responseOf_decode 48 b, ?_⟩⟩
  simp only [readPacket, List.forall_mem_cons]
  exact ⟨fromWire64_instant_of_absent, fromWire64_instant_of_absent, fromWire64_instant_of_absent,
    fromWire64_instant_of_absent, nofun⟩

/-! ### Reset and the step -/

/-- Settles O1: the reset state is the idle one, an idle block is ready unless `rst` is high, and without a response
the response ports have no value. -/
theorem resetIsIdle : Obligations.ResetIsIdle := by
  refine ⟨rfl, rfl, rfl, rfl, rfl, rfl, rfl, fun s hl _ hr => ?_, fun s hv => ?_⟩
  · exact (State.cmdReady_eq_true s).2 ⟨hl, hr⟩
  · have hn := (State.rspValid_eq_false s).1 hv
    simp [State.rspStatus, State.result, hn]

/-- Settles O7: the answering edge, and its guard for a placed table word. -/
theorem stepRunsDecodedCommand : Obligations.StepRunsDecodedCommand := by
  refine ⟨fun s c hr hl hn hw => step_answers hr hl hn hw, fun s nbits w i hi => ?_⟩
  obtain rfl : decode (CmdPorts.ofTableWord nbits w) = i := Option.some.inj hi
  exact step_answers (s.withFetchWord_rst nbits w) rfl rfl rfl

/-- Settles O14: nothing is in flight and nothing is left to wait. -/
theorem resetInv : Obligations.ResetInv := State.inv_of_rsp_none rfl fun _ => rfl

end Sys2Proof.Machine
end

section
/-! PROOFS of the memory family (20_memory.md): what the block owes the host along a run (rule R50), and the packet
buffer (rules R43, R44, R47). -/

namespace Sys2Proof.Machine

/-! ### What one edge takes in and hands over -/

/-- The commands that the coming edge accepts: one or none. -/
def State.takenIn (s : State) : List CmdPorts := if s.accepts then [s.pins.cmd] else []

/-- The responses that the coming edge delivers: one or none. -/
def State.handedOver (s : State) : List Response := if s.delivers then s.rsp.toList else []

/-- The responses that accepted commands are owed, in their order. -/
def responsesTo (cs : List CmdPorts) : List Response := cs.filterMap fun c => responseOf (decode c)

theorem responsesTo_append (cs ds : List CmdPorts) : responsesTo (cs ++ ds) = responsesTo cs ++ responsesTo ds :=
  List.filterMap_append

theorem responsesTo_singleton (c : CmdPorts) : responsesTo [c] = (responseOf (decode c)).toList := by
  cases h : responseOf (decode c) <;> simp [responsesTo, h]

theorem State.takenIn_of_accepts {s : State} (h : s.accepts = true) : s.takenIn = [s.pins.cmd] := if_pos h

theorem State.takenIn_of_not_accepts {s : State} (h : s.accepts = false) : s.takenIn = [] := by
  simp [takenIn, h]

theorem State.handedOver_of_not_delivers {s : State} (h : s.delivers = false) : s.handedOver = [] := by
  simp [handedOver, h]

theorem State.handedOver_of_delivers {s : State} {r : Response} (h : s.delivers = true) (hr : s.rsp = some r) :
    s.handedOver = [r] := by
  simp [handedOver, h, hr]

/-! ### What is owed -/

theorem State.outstanding_of_rsp {s : State} {r : Response} (h : s.rsp = some r) : s.outstanding = [r] := by
  simp [outstanding, h]

theorem State.outstanding_of_latch {s : State} {c : CmdPorts} (hn : s.rsp = none) (hl : s.latch = some c) :
    s.outstanding = (responseOf (decode c)).toList := by
  simp [outstanding, hn, hl]

theorem State.outstanding_of_idle {s : State} (hn : s.rsp = none) (hl : s.latch = none) : s.outstanding = [] := by
  simp [outstanding, hn, hl]

/-- An idle block presents nothing, since a presented response keeps its command latched. -/
theorem State.Inv.rsp_none {s : State} (hs : s.Inv) (hl : s.latch = none) : s.rsp = none := by
  cases hr : s.rsp with
  | none => rfl
  | some r =>
    obtain ⟨c, hc, -⟩ := hs.answered r hr
    rw [hl] at hc
    cases hc

theorem State.Inv.rsp_none_of_accepts {s : State} (hs : s.Inv) (ha : s.accepts = true) : s.rsp = none :=
  hs.rsp_none ((accepts_eq_true s).1 ha).2.2

theorem State.Inv.outstanding_of_accepts {s : State} (hs : s.Inv) (ha : s.accepts = true) : s.outstanding = [] :=
  outstanding_of_idle (hs.rsp_none_of_accepts ha) ((accepts_eq_true s).1 ha).2.2

/-- R50 for one edge without reset: what it hands over and leaves owed is what was owed and what it takes in. -/
theorem step_balance {s t : State} (hs : s.Inv) (hr : s.pins.rst = false) (h : step s = .next t) :
    s.handedOver ++ t.outstanding = s.outstanding ++ responsesTo s.takenIn := by
  obtain ⟨hr', -⟩ | ⟨ha, rfl⟩ | ⟨-, ha, hd, rfl⟩ | ⟨c, -, hl, hn, -, hexec⟩ | ⟨c, w, -, hl, hn, -, rfl⟩ |
    ⟨-, ha, hd, -, rfl⟩ := step_cases h
  · rw [hr] at hr'
    cases hr'
  · have hn := hs.rsp_none_of_accepts ha
    rw [State.handedOver_of_not_delivers (not_delivers_of_rsp hn), hs.outstanding_of_accepts ha,
      State.takenIn_of_accepts ha, responsesTo_singleton]
    rfl
  · obtain ⟨-, ⟨r, hrsp⟩, -⟩ := (State.delivers_eq_true s).1 hd
    rw [State.handedOver_of_delivers hd hrsp, State.outstanding_of_rsp hrsp, State.takenIn_of_not_accepts ha]
    rfl
  · obtain ⟨r, hresp, rfl⟩ := exec_eq_next hexec
    rw [State.handedOver_of_not_delivers (not_delivers_of_rsp hn), State.outstanding_of_latch hn hl, hresp,
      State.takenIn_of_not_accepts (not_accepts_of_latch hl)]
    rfl
  · rw [State.handedOver_of_not_delivers (not_delivers_of_rsp hn),
      State.takenIn_of_not_accepts (not_accepts_of_latch hl)]
    exact (List.append_nil _).symm
  · rw [State.handedOver_of_not_delivers hd, State.takenIn_of_not_accepts ha]
    exact (List.append_nil _).symm

/-- R190: an edge with `rst = 1` hands nothing over and leaves nothing owed. -/
theorem step_rst_balance {s t : State} (hr : s.pins.rst = true) (h : step s = .next t) :
    s.handedOver ++ t.outstanding = [] := by
  rw [step_rst hr] at h
  cases h
  rw [State.handedOver_of_not_delivers (by simp [State.delivers, hr])]
  rfl

/-- R50, R191 for any edge: what it hands over and leaves owed is part of what was owed and what it takes in. -/
theorem step_sublist {s t : State} (hs : s.Inv) (h : step s = .next t) :
    (s.handedOver ++ t.outstanding).Sublist (s.outstanding ++ responsesTo s.takenIn) := by
  cases hr : s.pins.rst with
  | true =>
    rw [step_rst_balance hr h]
    exact List.nil_sublist _
  | false =>
    rw [step_balance hs hr h]

/-! ### Runs -/

/-- R206: every edge leads to a next state. -/
theorem exists_step (s : State) : ∃ t, step s = .next t := by
  unfold step
  split_ifs
  · exact ⟨_, rfl⟩
  · exact ⟨_, rfl⟩
  · exact ⟨_, rfl⟩
  · split
    · next c _ _ _ =>
      obtain ⟨r, -, hexec⟩ := everyCommandAnswersPurely (decode c)
      exact ⟨_, hexec _⟩
    · exact ⟨_, rfl⟩
    · exact ⟨_, rfl⟩

/-- Every edge moves the host's levels up by one. -/
theorem step_inputs {s t : State} (h : step s = .next t) : t.inputs = s.inputs.tail := by
  obtain ⟨-, rfl⟩ | ⟨-, rfl⟩ | ⟨-, -, -, rfl⟩ | ⟨c, -, -, -, -, hexec⟩ | ⟨c, w, -, -, -, -, rfl⟩ |
    ⟨-, -, -, -, rfl⟩ := step_cases h
  case inr.inr.inr.inl =>
    obtain ⟨r, -, rfl⟩ := exec_eq_next hexec
    rfl
  all_goals rfl

theorem State.noReset.rst_eq_false {s : State} (hs : s.noReset) : s.pins.rst = false := by
  unfold noReset at hs
  unfold pins
  cases hi : s.inputs with
  | nil => rfl
  | cons p ps => exact hs p (by simp [hi])

theorem State.noReset.step {s t : State} (hs : s.noReset) (h : step s = .next t) : t.noReset := by
  intro p hp
  rw [step_inputs h] at hp
  exact hs p (List.mem_of_mem_tail hp)

/-- The history of a run that starts with the edge taken in `s` and goes on as `h`. -/
def History.after (s : State) (h : History) : History :=
  { accepted := s.takenIn ++ h.accepted, delivered := s.handedOver ++ h.delivered, final := h.final }

theorem history_succ {k : Nat} {s t : State} (h : step s = .next t) :
    history (k + 1) s = (history k t).map (History.after s) := by
  simp only [history, h]
  rfl

/-- A history of `k + 1` edges is one edge and a history of `k`. -/
theorem history_succ_eq_some {k : Nat} {s : State} {h : History} (hh : history (k + 1) s = some h) :
    ∃ t g, step s = .next t ∧ history k t = some g ∧ h = g.after s := by
  obtain ⟨t, ht⟩ := exists_step s
  rw [history_succ ht, Option.map_eq_some_iff] at hh
  obtain ⟨g, hg, rfl⟩ := hh
  exact ⟨t, g, ht, hg, rfl⟩

/-- R206: every run has a history. -/
theorem exists_history (k : Nat) (s : State) : ∃ h, history k s = some h := by
  induction k generalizing s with
  | zero => exact ⟨_, rfl⟩
  | succ k ih =>
    obtain ⟨t, ht⟩ := exists_step s
    obtain ⟨g, hg⟩ := ih t
    exact ⟨g.after s, by rw [history_succ ht, hg]; rfl⟩

/-- R50: along a run without reset, the balance of its edges adds up. -/
theorem history_balance {k : Nat} {s : State} {h : History} (hs : s.Inv) (hr : s.noReset)
    (hh : history k s = some h) :
    h.delivered ++ h.final.outstanding = s.outstanding ++ responsesTo h.accepted := by
  induction k generalizing s h with
  | zero =>
    cases hh
    exact (List.append_nil _).symm
  | succ k ih =>
    obtain ⟨t, g, ht, hg, rfl⟩ := history_succ_eq_some hh
    calc s.handedOver ++ g.delivered ++ g.final.outstanding
      _ = s.handedOver ++ t.outstanding ++ responsesTo g.accepted := by
        rw [List.append_assoc, ih (stepKeepsInv s t hs ht) (hr.step ht) hg, List.append_assoc]
      _ = s.outstanding ++ responsesTo (s.takenIn ++ g.accepted) := by
        rw [step_balance hs hr.rst_eq_false ht, responsesTo_append, List.append_assoc]

/-- R50, R191: along any run nothing is delivered out of order or twice; a reset can only lose responses. -/
theorem history_sublist {k : Nat} {s : State} {h : History} (hs : s.Inv) (hh : history k s = some h) :
    (h.delivered ++ h.final.outstanding).Sublist (s.outstanding ++ responsesTo h.accepted) := by
  induction k generalizing s h with
  | zero =>
    cases hh
    exact List.sublist_append_left _ _
  | succ k ih =>
    obtain ⟨t, g, ht, hg, rfl⟩ := history_succ_eq_some hh
    have hrest := (ih (stepKeepsInv s t hs ht) hg).append_left s.handedOver
    have hedge := (step_sublist hs ht).append_right (responsesTo g.accepted)
    simp only [History.after, responsesTo_append, ← List.append_assoc] at hrest hedge ⊢
    exact hrest.trans hedge

/-- Settles O10: the invariant carries the balance of each edge along the run, and a block that accepts is idle. -/
theorem responsesInCommandOrder : Obligations.ResponsesInCommandOrder := by
  refine ⟨fun k s hs hr => ?_, fun s hs ha => hs.outstanding_of_accepts ha⟩
  obtain ⟨h, hh⟩ := exists_history k s
  exact ⟨h, hh, history_balance hs hr hh⟩

/-- Settles O11: an edge without reset keeps the balance, and one with reset drops what was owed. -/
theorem resetOnlyLosesResponses : Obligations.ResetOnlyLosesResponses := fun _ _ _ hs hh => history_sublist hs hh

/-! ### The packet buffer -/

theorem memRead_zero_toNat (b : Buf48) (k : Nat) (h : k + 0 ≤ 48) : (memRead b k 0 h).toNat = 0 := rfl

/-- Settles O25: Horner's scheme over the bytes, most significant first, multiplied out. -/
theorem memReadIsBigEndian : Obligations.MemReadIsBigEndian := by
  refine fun b k => ⟨fun h => ?_, fun h => ?_, fun h => ?_⟩
  all_goals
    simp only [memRead_succ_toNat, memRead_zero_toNat, Nat.add_zero]
    omega

/-- Two buffers hold the same bytes at every offset below `n`. -/
def AgreeBelow (n : Nat) (a b : Buf48) : Prop := ∀ j (hj : j < 48), j < n → a[j] = b[j]

theorem agreeBelow_zero (a b : Buf48) : AgreeBelow 0 a b := nofun

theorem AgreeBelow.eq {n : Nat} {a b : Buf48} (h : AgreeBelow n a b) (hn : 48 ≤ n) : a = b :=
  Vector.ext fun j hj => h j hj (by omega)

/-- R44: a write where two buffers begin to differ makes them agree up to its end. -/
theorem AgreeBelow.memWrite {k : Nat} {a b : Buf48} (hab : AgreeBelow k a b) (n : Nat) (v : BitVec (8 * n))
    (h : k + n ≤ 48 := by decide) : AgreeBelow (k + n) (memWrite a k n v h) (memWrite b k n v h) := by
  intro j hj hlt
  rw [memWrite_getElem, memWrite_getElem]
  split_ifs with hin
  · rfl
  · exact hab j hj (by omega)

theorem AgreeBelow.memClear {k : Nat} {a b : Buf48} (hab : AgreeBelow k a b) (n : Nat)
    (h : k + n ≤ 48 := by decide) : AgreeBelow (k + n) (memClear a k n h) (memClear b k n h) := by
  intro j hj hlt
  rw [memClear_getElem, memClear_getElem]
  split_ifs with hin
  · rfl
  · exact hab j hj (by omega)

/-- R44, R121: each of ENCODE's eleven fields starts where the one before it ends, and the last ends at 48. -/
theorem writePacket_eq (a b : Buf48) (p : Packet) : writePacket a p = writePacket b p := by
  have hplain := (agreeBelow_zero a b).memWrite 1 p.hdr |>.memWrite 1 p.stratum |>.memWrite 1 p.poll
    |>.memWrite 1 p.precision
  have hwords := hplain.memWrite 4 p.rootDelay |>.memWrite 4 p.rootDisp |>.memWrite 4 p.refId
  have hstamps := hwords.memWrite 8 (toWire64 p.refTs) |>.memWrite 8 (toWire64 p.orgTs)
    |>.memWrite 8 (toWire64 p.recTs) |>.memWrite 8 (toWire64 p.xmtTs)
  exact hstamps.eq (Nat.le_refl 48)

/-- R44, R134: MKREQ's header, cleared bytes and transmit timestamp follow one another and end at 48. -/
theorem writeRequest_eq (a b : Buf48) (l v m : Byte) (now : Instant) :
    writeRequest a l v m now = writeRequest b l v m now := by
  have hcleared := (agreeBelow_zero a b).memWrite 1 (packHeader l v m) |>.memClear 39
  have hstamp := hcleared.memWrite 8 (toWire64 ⟨true, now⟩)
  exact hstamp.eq (Nat.le_refl 48)

/-- Settles O26: the bytes of one write, and two buffers that every field of a result makes agree further. -/
theorem memWriteIsBigEndianAndTotal : Obligations.MemWriteIsBigEndianAndTotal := by
  refine ⟨fun b k n v h => ⟨fun i hi => ?_, fun j hj hout => ?_⟩, writePacket_eq, writeRequest_eq⟩
  · exact memWrite_getElem_in b k n v h i hi (by omega)
  · exact memWrite_getElem_out b k n v h j hj hout

/-- R125: a count below 48 is answered without a look at the buffer. -/
theorem exec_decode_short {len : BitVec 16} (h : len.toNat < 48) (b : Buf48) (s : State) :
    exec (.decode len b) s = raiseError .formatError s :=
  if_pos h

/-- Settles O30: below 48 the buffer is not read; from 48 up, agreement below `len` is equality. -/
theorem bytesBeyondLenIgnored : Obligations.BytesBeyondLenIgnored := by
  intro len b b' s hagree
  by_cases hshort : len.toNat < 48
  · rw [exec_decode_short hshort, exec_decode_short hshort]
  · have hab : AgreeBelow len.toNat b b' := hagree
    rw [hab.eq (Nat.le_of_not_lt hshort)]

end Sys2Proof.Machine
end

section
/-! PROOFS of the encoding family (30_encoding.md): that decoder and encoder agree (rules R60, R61), the status codes
(rule R72), and MKREQ as PACK then ENCODE (rule R75). -/

namespace Sys2Proof.Machine

/-! ### Decoder and encoder -/

/-- R60: no operand is lost on the way through the command port. -/
theorem decode_encode (i : Instr) : decode (encode i) = i := by cases i <;> rfl

/-- R60, R61, R175: what Laws/PerInstr.lean says of each constructor. -/
theorem opCode_statement (i : Instr) : Laws.OpCode.Statement i := by
  open Laws in
  cases i
  exacts [OpCode.pack .., OpCode.unpack _, OpCode.towire _, OpCode.fromwire .., OpCode.encode _, OpCode.decode ..,
    OpCode.delay .., OpCode.offset .., OpCode.mkreq .., OpCode.reserved9, OpCode.reserved10, OpCode.reserved11,
    OpCode.reserved12, OpCode.reserved13, OpCode.reserved14, OpCode.reserved15]

/-- R61: the decoder picks the row of the code on `cmd_op`. -/
theorem code_decode (c : CmdPorts) : (decode c).code = c.op := by
  rcases c.op_cases with h | h | h | h | h | h | h | h | h | h | h | h | h | h | h | h
  all_goals
    rw [decode, h]
    rfl

theorem encode_decode_op (c : CmdPorts) : (encode (decode c)).op = c.op :=
  (opCode_statement (decode c)).1.trans (code_decode c)

/-- R26, R60: the code on the two samples is the same, so each listed port is that of the row the code selects. -/
theorem agreeOnListed_encode_decode (c : CmdPorts) : agreeOnListed (encode (decode c)) c := by
  have hop := encode_decode_op c
  constructor
  case op => exact hop
  all_goals
    intro h
    rw [hop] at h
  case pack =>
    rw [decode_op0 c h]
    exact ⟨rfl, rfl, rfl⟩
  case unpack =>
    rw [decode_op1 c h]
    rfl
  case towire =>
    rw [decode_op2 c h]
    rfl
  case fromwire =>
    rw [decode_op3 c h]
    exact ⟨rfl, rfl⟩
  case encode =>
    rw [decode_op4 c h]
    rfl
  case decode =>
    rw [decode_op5 c h]
    exact ⟨rfl, rfl⟩
  case calculator =>
    obtain h | h := h
    · rw [decode_op6 c h]
      exact ⟨rfl, rfl, rfl, rfl⟩
    · rw [decode_op7 c h]
      exact ⟨rfl, rfl, rfl, rfl⟩
  case mkreq =>
    rw [decode_op8 c h]
    exact ⟨rfl, rfl, rfl, rfl⟩

/-- Settles O47: by constructor for a command, and by the code on `cmd_op` for a port sample. -/
theorem decodeEncodeAgree : Obligations.DecodeEncodeAgree :=
  ⟨fun i _ => ⟨decode_encode i, (opCode_statement i).1⟩,
    fun c => ⟨agreeOnListed_encode_decode c, code_decode c, (opCode_statement (decode c)).2⟩⟩

/-! ### Status codes -/

theorem Response.status_toNat_le (r : Response) : r.status.toNat ≤ 4 := by
  cases r with
  | ok => exact Nat.zero_le 4
  | error e => cases e <;> decide

/-- Settles O46: one code per kind of response, and 4 bounds them. -/
theorem statusCodes : Obligations.StatusCodes :=
  ⟨fun _ => rfl, rfl, rfl, rfl, rfl, Response.status_toNat_le⟩

/-! ### MKREQ as PACK then ENCODE -/

/-- R44, R134: a zero field written where a clearing ends is cleared with it. -/
theorem memWrite_memClear_zero (b : Buf48) (k m n : Nat) (h : k + m + n ≤ 48) :
    memWrite (memClear b k m (by omega)) (k + m) n 0 h = memClear b k (m + n) (by omega) := by
  apply Vector.ext
  intro j hj
  rw [memWrite_getElem, memClear_getElem, memClear_getElem]
  by_cases hfield : k + m ≤ j ∧ j < k + m + n
  · rw [if_pos hfield, if_pos (by omega)]
    exact BitVec.extractLsb'_zero
  · rw [if_neg hfield]
    by_cases hcleared : k ≤ j ∧ j < k + m
    · rw [if_pos hcleared, if_pos (by omega)]
    · rw [if_neg hcleared, if_neg (by omega)]

/-- R75, R134: the nine zero fields that ENCODE writes between the header and the transmit timestamp are the 39 bytes
that MKREQ clears. -/
theorem writePacket_request (b : Buf48) (l v m : Byte) (now : Instant) :
    writePacket b { Packet.blank with hdr := packHeader l v m, xmtTs := ⟨true, now⟩ } =
      writeRequest b l v m now := by
  have hnone : toWire64 .none = 0 := toWire64_absent .none rfl
  simp only [writePacket, writeRequest, Packet.blank, hnone]
  have hfirst (a : Buf48) : memWrite a 1 1 0 = memClear a 1 1 := rfl
  rw [hfirst, memWrite_memClear_zero _ 1 1 1, memWrite_memClear_zero _ 1 2 1, memWrite_memClear_zero _ 1 3 4,
    memWrite_memClear_zero _ 1 7 4, memWrite_memClear_zero _ 1 11 4, memWrite_memClear_zero _ 1 15 8,
    memWrite_memClear_zero _ 1 23 8, memWrite_memClear_zero _ 1 31 8]

/-- Settles O34: PACK and MKREQ make one test of the operands, and where it passes the bytes are the same. -/
theorem mkreqIsPackThenEncode : Obligations.MkreqIsPackThenEncode := by
  intro l v m now
  rw [responseOf_pack, responseOf_mkreq]
  by_cases hrange : headerInRange l v m
  · rw [if_pos hrange, if_pos hrange]
    refine .inr ⟨packHeader l v m, writeRequest .zero l v m now, rfl, ?_, rfl⟩
    rw [responseOf_encode, writePacket_request]
  · rw [if_neg hrange, if_neg hrange]
    exact .inl ⟨rfl, rfl⟩

end Sys2Proof.Machine
end

section
/-! PROOFS of the bit-field header family (40_bitfield_header.md): the fields and the value of a header byte (rules R63,
R91, R92), and that PACK and UNPACK are inverse (rule R93). -/

namespace Sys2Proof.Machine

/-! ### The fields of a header byte -/

theorem headerLi_toNat (h : Byte) : (headerLi h).toNat = h.toNat / 64 := by
  have hlt := h.isLt
  simp only [headerLi, BitVec.extractLsb'_toNat, Nat.shiftRight_eq_div_pow]
  omega

theorem headerVn_toNat (h : Byte) : (headerVn h).toNat = h.toNat / 8 % 8 := by
  simp only [headerVn, BitVec.extractLsb'_toNat, Nat.shiftRight_eq_div_pow]

theorem headerMode_toNat (h : Byte) : (headerMode h).toNat = h.toNat % 8 := by
  simp only [headerMode, BitVec.extractLsb'_toNat, Nat.shiftRight_zero]

/-- R63: the three fields are the whole byte. -/
theorem toNat_eq_headerFields (h : Byte) :
    h.toNat = (headerLi h).toNat * 64 + (headerVn h).toNat * 8 + (headerMode h).toNat := by
  rw [headerLi_toNat, headerVn_toNat, headerMode_toNat]
  omega

/-! ### The fields of a packed byte -/

theorem headerLi_packHeader (l v m : Byte) : headerLi (packHeader l v m) = l.extractLsb' 0 2 :=
  BitVec.extractLsb'_append_eq_left

/-- The lower six bits are `vn` and `mode`, and the upper three of them are `vn`. -/
theorem headerVn_packHeader (l v m : Byte) : headerVn (packHeader l v m) = v.extractLsb' 0 3 :=
  (BitVec.extractLsb'_append_eq_of_add_le (by decide)).trans BitVec.extractLsb'_append_eq_left

theorem headerMode_packHeader (l v m : Byte) : headerMode (packHeader l v m) = m.extractLsb' 0 3 :=
  (BitVec.extractLsb'_append_eq_of_add_le (by decide)).trans BitVec.extractLsb'_append_eq_right

/-- R91: in range no bit of an operand is cut off, so the value of the byte is that of its fields. -/
theorem packHeader_toNat {l v m : Byte} (hl : l.toNat ≤ 3) (hv : v.toNat ≤ 7) (hm : m.toNat ≤ 7) :
    (packHeader l v m).toNat = l.toNat * 64 + v.toNat * 8 + m.toNat := by
  rw [toNat_eq_headerFields, headerLi_packHeader, headerVn_packHeader, headerMode_packHeader]
  simp only [BitVec.extractLsb'_toNat, Nat.shiftRight_zero]
  omega

/-- A field driven on an operand port is the part of the port that PACK takes. -/
theorem extractLsb'_setWidth_byte {n : Nat} (x : BitVec n) (hn : 0 + n ≤ 8) :
    (x.setWidth 8).extractLsb' 0 n = x := by
  rw [BitVec.extractLsb'_setWidth_of_le hn, BitVec.extractLsb'_eq_self]

/-- R93: the fields of a byte, packed again, stand where they stood. -/
theorem packHeader_headerFields (h : Byte) :
    packHeader ((headerLi h).setWidth 8) ((headerVn h).setWidth 8) ((headerMode h).setWidth 8) = h := by
  have hlow : headerVn h ++ headerMode h = h.extractLsb' 0 6 :=
    BitVec.extractLsb'_append_extractLsb'_eq_extractLsb' rfl
  have hbyte : headerLi h ++ h.extractLsb' 0 6 = h := BitVec.extractLsb'_append_extractLsb'
  rw [packHeader, extractLsb'_setWidth_byte _ (by decide), extractLsb'_setWidth_byte _ (by decide),
    extractLsb'_setWidth_byte _ (by decide), hlow, hbyte]

/-- R93: the fields of a byte are in range for PACK. -/
theorem headerInRange_headerFields (h : Byte) :
    headerInRange ((headerLi h).setWidth 8) ((headerVn h).setWidth 8) ((headerMode h).setWidth 8) = true := by
  rw [headerInRange_eq_true]
  have hl := (headerLi h).isLt
  have hv := (headerVn h).isLt
  have hm := (headerMode h).isLt
  simp only [BitVec.toNat_setWidth]
  omega

/-! ### PACK and UNPACK -/

/-- R91: PACK in any state. -/
theorem exec_pack (l v m : Byte) (s : State) : exec (.pack l v m) s = .next { s with
    rsp := some (if headerInRange l v m then .ok (.pack (packHeader l v m)) else .error .invalidArgument) } :=
  respond_or_raiseError _ _ _ s

/-- Settles O17: in range the packed byte has the operands as its fields; out of range the test of PACK fails. -/
theorem packBuildsHeader : Obligations.PackBuildsHeader := by
  refine ⟨decode_op0, fun l v m s => ⟨?_, fun hout => ?_⟩⟩
  · rintro ⟨hl, hv, hm⟩
    have hrange := (headerInRange_eq_true l v m).2 ⟨hl, hv, hm⟩
    refine ⟨packHeader l v m, ?_, ?_, ?_, ?_, packHeader_toNat hl hv hm⟩
    · rw [exec_pack, if_pos hrange]
    · exact headerLi_packHeader l v m
    · exact headerVn_packHeader l v m
    · exact headerMode_packHeader l v m
  · have hrange : ¬ headerInRange l v m = true := by
      rw [headerInRange_eq_true]
      omega
    rw [exec_pack, if_neg hrange]

/-- Settles O19: the fields of a packed byte are the operands, and the fields of a byte are in range and pack to it. -/
theorem packUnpackRoundTrip : Obligations.PackUnpackRoundTrip := by
  refine ⟨fun l v m hl hv hm => ⟨packHeader l v m, ?_, ?_⟩, fun h => ⟨_, _, _, responseOf_unpack h, ?_⟩⟩
  · rw [responseOf_pack, if_pos ((headerInRange_eq_true l v m).2 ⟨hl, hv, hm⟩)]
  · rw [responseOf_unpack, headerLi_packHeader, headerVn_packHeader, headerMode_packHeader,
      BitVec.setWidth_eq_extractLsb' (by decide), BitVec.setWidth_eq_extractLsb' (by decide),
      BitVec.setWidth_eq_extractLsb' (by decide)]
  · rw [responseOf_pack, if_pos (headerInRange_headerFields h), packHeader_headerFields]

/-- Settles O18: UNPACK has no condition, and its three results are the fields of the byte. -/
theorem unpackSplitsHeader : Obligations.UnpackSplitsHeader :=
  ⟨decode_op1, fun h s => ⟨headerLi h, headerVn h, headerMode h, respond_next _ s, headerLi_toNat h,
    headerVn_toNat h, headerMode_toNat h⟩⟩

end Sys2Proof.Machine
end

section
/-! PROOFS of the timestamp converter family (41_timestamp_converter.md): the halves of a wire timestamp (rule R66),
the conversions to and from the wire (rules R101, R103 to R105), and their round trips (rule R109). -/

namespace Sys2Proof.Machine

/-! ### The halves of a wire timestamp -/

theorem wireSec_wireOf (sec frac : BitVec 32) : wireSec (wireOf sec frac) = sec := BitVec.extractLsb'_append_eq_left

theorem wireFrac_wireOf (sec frac : BitVec 32) : wireFrac (wireOf sec frac) = frac :=
  BitVec.extractLsb'_append_eq_right

theorem wireOf_wireSec_wireFrac (w : WireTs) : wireOf (wireSec w) (wireFrac w) = w :=
  BitVec.extractLsb'_append_extractLsb'

theorem wireOf_inj {a b c d : BitVec 32} : wireOf a b = wireOf c d ↔ a = c ∧ b = d := by
  refine ⟨fun h => ⟨?_, ?_⟩, fun ⟨hac, hbd⟩ => by rw [hac, hbd]⟩
  · rw [← wireSec_wireOf a b, h, wireSec_wireOf]
  · rw [← wireFrac_wireOf a b, h, wireFrac_wireOf]

theorem wireOf_eq_zero (sec frac : BitVec 32) : wireOf sec frac = 0 ↔ sec = 0 ∧ frac = 0 :=
  wireOf_inj (c := 0) (d := 0)

theorem wireHalves_eq_zero (w : WireTs) : wireSec w = 0 ∧ wireFrac w = 0 ↔ w = 0 := by
  rw [← wireOf_eq_zero, wireOf_wireSec_wireFrac]

/-! ### From the wire -/

/-- R6, R7: `EPOCH_OFFSET_RAW` as a number. -/
theorem epochOffsetRaw_eq : Config.epochOffsetRaw = 9487534653230284800 := rfl

/-- R28, R104: the all-zero field alone is reported absent. -/
theorem fromWire64_absent (w : WireTs) : (fromWire64 w).present = false ↔ w = 0 := by
  rw [← Bool.not_eq_true, fromWire64_present, not_not]

/-- R104: the instant in terms of the two operands. -/
theorem fromWire64_wireOf_toInt (sec frac : BitVec 32) :
    (fromWire64 (wireOf sec frac)).instant.toInt = (sec.toNat : Int) * 2 ^ 32 + frac.toNat - 9487534653230284800 := by
  rw [fromWire64_toInt, wireOf_toNat, epochOffsetRaw_eq]
  push_cast
  rfl

/-- R105: FROMWIRE stays in the wire range. -/
theorem fromWire64_range (w : WireTs) :
    -9487534653230284800 ≤ (fromWire64 w).instant.toInt ∧
      (fromWire64 w).instant.toInt ≤ 8959209420479266815 := by
  have hw := w.isLt
  rw [fromWire64_toInt, epochOffsetRaw_eq]
  omega

/-- R105: the instant determines the field. -/
theorem fromWire64_instant_injective {v w : WireTs} (h : (fromWire64 v).instant = (fromWire64 w).instant) : v = w := by
  have hint := congrArg BitVec.toInt h
  rw [fromWire64_toInt, fromWire64_toInt] at hint
  exact BitVec.eq_of_toNat_eq (by omega)

/-! ### To the wire -/

theorem instant_toInt_range (x : Instant) : -2 ^ 64 ≤ x.toInt ∧ x.toInt < 2 ^ 64 := ⟨x.le_toInt, x.toInt_lt⟩

section

variable {t : OptInstant} (h : t.present = true)
include h

/-- R101, R103 (b): the floor seconds moved to the protocol epoch, wrapped. -/
theorem wireSec_toWire64_toNat :
    ((wireSec (toWire64 t)).toNat : Int) = (t.instant.toInt / 2 ^ 32 + 2208988800) % 2 ^ 32 := by
  have hw := toWire64_toNat t h
  rw [epochOffsetRaw_eq] at hw
  rw [wireSec_toNat]
  omega

/-- R101, R103 (a): the epoch offset is whole seconds, so it does not touch the fraction. -/
theorem wireFrac_toWire64_toNat : ((wireFrac (toWire64 t)).toNat : Int) = t.instant.toInt % 2 ^ 32 := by
  have hw := toWire64_toNat t h
  rw [epochOffsetRaw_eq] at hw
  rw [wireFrac_toNat]
  omega

/-- R103 (d): the range of an instant holds two solutions of `raw + EPOCH_OFFSET_RAW ≡ 0 (mod 2^64)`. -/
theorem toWire64_eq_zero :
    toWire64 t = 0 ↔ t.instant.toInt = -9487534653230284800 ∨ t.instant.toInt = 8959209420479266816 := by
  have hrange := instant_toInt_range t.instant
  have hw := toWire64_toNat t h
  rw [epochOffsetRaw_eq] at hw
  have hzero : toWire64 t = 0 ↔ (toWire64 t).toNat = 0 := BitVec.toNat_inj.symm
  rw [hzero]
  omega

/-- R103 (c), R109 (c) to (e): an instant comes back from the wire as itself, or as the one 2^32 s away that lies in
the wire range. -/
theorem fromWire64_toWire64_toInt :
    (fromWire64 (toWire64 t)).instant.toInt =
      if t.instant.toInt < -9487534653230284800 then t.instant.toInt + 2 ^ 64
      else if t.instant.toInt < 2085978496 * 2 ^ 32 then t.instant.toInt
      else t.instant.toInt - 2 ^ 64 := by
  have hrange := instant_toInt_range t.instant
  rw [fromWire64_toInt, toWire64_toNat t h, epochOffsetRaw_eq]
  split_ifs <;> omega

end

/-- R101: the fraction is the low half of the instant's own bits. -/
theorem extractLsb'_instant_toNat (x : Instant) : ((x.extractLsb' 0 32).toNat : Int) = x.toInt % 2 ^ 32 := by
  rw [BitVec.extractLsb'_toNat, Nat.shiftRight_zero, BitVec.toInt_eq_toNat_cond]
  split <;> omega

/-- R103 (c): a field is what TOWIRE gives for the instant FROMWIRE drives for it. -/
theorem toWire64_fromWire64_instant (w : WireTs) : toWire64 ⟨true, (fromWire64 w).instant⟩ = w := by
  have hw := toWire64_toNat ⟨true, (fromWire64 w).instant⟩ rfl
  have hlt := w.isLt
  rw [fromWire64_toInt] at hw
  exact BitVec.eq_of_toNat_eq (by omega)

/-- R109 (a): what FROMWIRE reports goes back to the field it came from. -/
theorem toWire64_fromWire64 (w : WireTs) : toWire64 (fromWire64 w) = w := by
  by_cases hw : w = 0
  · rw [toWire64_absent _ ((fromWire64_absent w).2 hw), hw]
  · have hpresent : fromWire64 w = ⟨true, (fromWire64 w).instant⟩ := by
      rw [← (fromWire64_present w).2 hw]
    rw [hpresent, toWire64_fromWire64_instant]

/-- R109: FROMWIRE of the two halves that TOWIRE drives. -/
theorem responseOf_fromwire_wireHalves (w : WireTs) :
    responseOf (.fromwire (wireSec w) (wireFrac w)) = some (.ok (.fromwire (fromWire64 w))) := by
  rw [responseOf_fromwire, wireOf_wireSec_wireFrac]

theorem responseOf_towire_of_eq {t : OptInstant} {w : WireTs} (h : toWire64 t = w) :
    responseOf (.towire t) = some (.ok (.towire (wireSec w) (wireFrac w))) := by
  rw [responseOf_towire, h]

/-! ### TOWIRE -/

/-- Settles O20: the two halves of the wire timestamp of an absent and of a present operand. -/
theorem towireConverts : Obligations.TowireConverts := by
  refine ⟨decode_op2, fun t s => ⟨wireSec (toWire64 t), wireFrac (toWire64 t), respond_next _ s, fun habsent => ?_,
    fun hpresent => ?_⟩⟩
  · exact (wireHalves_eq_zero _).2 (toWire64_absent t habsent)
  · have hsec := wireSec_toWire64_toNat hpresent
    have hfrac := wireFrac_toWire64_toNat hpresent
    have hlow := extractLsb'_instant_toNat t.instant
    refine ⟨hsec, hfrac, BitVec.eq_of_toNat_eq (by omega), by omega⟩

/-- Settles O21: FROMWIRE of the result gives the instant back or moves it by 2^32 s, and what it gives is itself an
instant of the wire range with this result. -/
theorem towireWrapsSeconds : Obligations.TowireWrapsSeconds := by
  refine ⟨⟨BitVec.ofInt 65 (-5 * 2 ^ 30), by decide, by decide⟩, fun x => ?_⟩
  have hrange := instant_toInt_range x
  have hback := fromWire64_toWire64_toInt (t := ⟨true, x⟩) rfl
  dsimp only at hback
  have hwire := fromWire64_range (toWire64 ⟨true, x⟩)
  refine ⟨by omega, _, _, _, responseOf_towire _, responseOf_fromwire_wireHalves _, wireSec_toWire64_toNat rfl,
    wireFrac_toWire64_toNat rfl, ?_, fun hne => ⟨_, ?_, hwire.1, by omega,
      responseOf_towire_of_eq (toWire64_fromWire64_instant _)⟩, ?_⟩
  · rw [← BitVec.toInt_inj, hback]
    split_ifs <;> omega
  · rw [ne_eq, ← BitVec.toInt_inj, hback] at hne
    rw [hback]
    split_ifs at hne ⊢ <;> omega
  · rw [wireHalves_eq_zero, toWire64_eq_zero rfl]

/-! ### FROMWIRE -/

/-- Settles O22: the instant is the difference, and the field is zero when both halves are. -/
theorem fromwireConverts : Obligations.FromwireConverts := by
  refine ⟨decode_op3, fun sec frac s => ⟨fromWire64 (wireOf sec frac), respond_next _ s, ?_, ?_, ?_⟩⟩
  · rw [fromWire64_wireOf_toInt]
    omega
  · rw [fromWire64_wireOf_toInt]
    omega
  · rw [fromWire64_absent, wireOf_eq_zero]

/-- Settles O23: the range of an offset 64-bit value, its two ends, and that the instant determines both halves. -/
theorem fromwireRangeAndInjective : Obligations.FromwireRangeAndInjective := by
  refine ⟨fun sec frac => ⟨_, responseOf_fromwire sec frac, fromWire64_range _⟩,
    ⟨_, responseOf_fromwire 0 0, by decide, by decide⟩, ⟨_, responseOf_fromwire _ _, by decide, by decide⟩, ?_⟩
  intro a b a' b' t t' ht ht' hinstant
  rw [responseOf_fromwire] at ht ht'
  cases ht
  cases ht'
  exact wireOf_inj.1 (fromWire64_instant_injective hinstant)

/-! ### Round trips -/

theorem OptInstant.eq_of_present {t u : OptInstant} (hp : u.present = t.present)
    (hi : u.instant.toInt = t.instant.toInt) : u = t := by
  cases t; cases u
  exact congrArg₂ OptInstant.mk hp (BitVec.eq_of_toInt_eq hi)

/-- R28: only an absent instant is equal to an absent one, whatever their instant parts hold. -/
theorem OptInstant.same_eq_of_absent {t u : OptInstant} (hu : u.present = false) : u.same t = !t.present := by
  simp [OptInstant.same, hu]

/-- R103 (d), R109 (d), (e): which present instants come back absent. -/
theorem fromWire64_toWire64_absent {t : OptInstant} (h : t.present = true) :
    (fromWire64 (toWire64 t)).present = false ↔
      t.instant.toInt = -9487534653230284800 ∨ t.instant.toInt = 8959209420479266816 := by
  rw [fromWire64_absent, toWire64_eq_zero h]

theorem fromWire64_toWire64_present {t : OptInstant} (h : t.present = true)
    (hlow : t.instant.toInt ≠ -9487534653230284800) (hwrap : t.instant.toInt ≠ 8959209420479266816) :
    (fromWire64 (toWire64 t)).present = true := by
  rw [← Bool.not_eq_false, fromWire64_toWire64_absent h]
  exact not_or.2 ⟨hlow, hwrap⟩

/-- Settles O24: (a) is the inverse law on fields; (b) to (e) follow the regions of the instant. -/
theorem timestampRoundTrips : Obligations.TimestampRoundTrips := by
  refine ⟨fun sec frac => ⟨_, responseOf_fromwire sec frac, ?_⟩, fun t => ⟨_, _, _, responseOf_towire t,
    responseOf_fromwire_wireHalves _, fun habsent => ?_, fun hp hlow hhigh => ?_, fun hp hepoch => ?_,
    fun hp hout => ?_⟩⟩
  · rw [responseOf_towire_of_eq (toWire64_fromWire64 _), wireSec_wireOf, wireFrac_wireOf]
  · have hback := (fromWire64_absent _).2 (toWire64_absent t habsent)
    exact ⟨hback, by rw [OptInstant.same_eq_of_absent hback, habsent]; rfl⟩
  · have hback := fromWire64_toWire64_toInt hp
    rw [if_neg (by omega), if_pos hhigh] at hback
    have hpresent := fromWire64_toWire64_present hp (by omega) (by omega)
    exact OptInstant.eq_of_present (hpresent.trans hp.symm) hback
  · have hback := (fromWire64_toWire64_absent hp).2 (.inl hepoch)
    exact ⟨hback, by rw [OptInstant.same_eq_of_absent hback, hp]; rfl⟩
  · split_ifs with hwrap
    · exact (fromWire64_toWire64_absent hp).2 (.inr hwrap)
    · have hrange := instant_toInt_range t.instant
      have hback := fromWire64_toWire64_toInt hp
      refine ⟨fromWire64_toWire64_present hp (by omega) (by omega), ?_⟩
      rw [hback]
      split_ifs <;> omega

end Sys2Proof.Machine
end

section
/-! PROOFS of the packet codec family (42_packet_codec.md): what ENCODE lays out and DECODE reads (rules R121, R125,
R126), that they are inverse (rules R130, R131), and MKREQ's request (rules R134, R135). -/

namespace Sys2Proof.Machine

/-! ### Fields of a buffer -/

/-- R43: a field of one byte is that byte. -/
theorem memRead_one (b : Buf48) (k : Nat) (h : k + 1 ≤ 48) : memRead b k 1 h = b[k] :=
  BitVec.eq_of_toNat_eq ((memReadIsBigEndian b k).1 h)

/-- A field read depends on its bytes and not on where they stand. -/
theorem memRead_eq_of_bytes_eq (a b : Buf48) (j k n : Nat) (hj : j + n ≤ 48) (hk : k + n ≤ 48)
    (hbytes : ∀ i (hi : i < n), a[j + i] = b[k + i]) : memRead a j n hj = memRead b k n hk := by
  induction n with
  | zero => rfl
  | succ n ih =>
    simp only [memRead]
    rw [ih (by omega) (by omega) fun i hi => hbytes i (by omega), hbytes n (by omega)]

/-- R43: a field is zero when its bytes are. -/
theorem memRead_eq_zero (b : Buf48) (k n : Nat) (h : k + n ≤ 48) :
    memRead b k n h = 0 ↔ ∀ i (hi : i < n), b[k + i] = 0 := by
  refine ⟨fun hzero i hi => ?_, fun hbytes => ?_⟩
  · rw [← memRead_byte b k n h i hi (by omega), hzero]
    exact BitVec.extractLsb'_zero
  · induction n with
    | zero => rfl
    | succ n ih =>
      apply BitVec.eq_of_toNat_eq
      rw [memRead_succ_toNat, ih (by omega) fun i hi => hbytes i (by omega), hbytes n (by omega)]
      simp

/-- R42, R66: the two 4-byte halves of an 8-byte field are the halves of its wire timestamp. -/
theorem wireOf_memRead (b : Buf48) (k : Nat) (h : k + 8 ≤ 48) :
    wireOf (memRead b k 4 (by omega)) (memRead b (k + 4) 4 (by omega)) = memRead b k 8 h := by
  apply BitVec.eq_of_toNat_eq
  rw [wireOf_toNat, (memReadIsBigEndian b k).2.1, (memReadIsBigEndian b (k + 4)).2.1, (memReadIsBigEndian b k).2.2]
  simp only [Nat.add_assoc, Nat.reduceAdd]
  omega

/-- R43, R44: a field written back where it was read changes nothing. -/
theorem memWrite_memRead (b : Buf48) (k n : Nat) (h : k + n ≤ 48) : memWrite b k n (memRead b k n h) h = b := by
  apply Vector.ext
  intro j hj
  rw [memWrite_getElem]
  split_ifs with hin
  · rw [memRead_byte b k n h (j - k) (by omega) (by omega)]
    congr 1
    omega
  · rfl

/-! ### The eleven fields of a packet -/

/-- R41, R121: each field of an encoded packet, read back; no later write reaches it. -/
theorem memRead_writePacket (b : Buf48) (p : Packet) :
    memRead (writePacket b p) 0 1 = p.hdr ∧ memRead (writePacket b p) 1 1 = p.stratum ∧
    memRead (writePacket b p) 2 1 = p.poll ∧ memRead (writePacket b p) 3 1 = p.precision ∧
    memRead (writePacket b p) 4 4 = p.rootDelay ∧ memRead (writePacket b p) 8 4 = p.rootDisp ∧
    memRead (writePacket b p) 12 4 = p.refId ∧ memRead (writePacket b p) 16 8 = toWire64 p.refTs ∧
    memRead (writePacket b p) 24 8 = toWire64 p.orgTs ∧ memRead (writePacket b p) 32 8 = toWire64 p.recTs ∧
    memRead (writePacket b p) 40 8 = toWire64 p.xmtTs := by
  unfold writePacket
  refine ⟨?_, ?_, ?_, ?_, ?_, ?_, ?_, ?_, ?_, ?_, memRead_memWrite_same ..⟩ <;>
    simp (disch := decide) only [memRead_memWrite_other, memRead_memWrite_same]

/-- R41: the offsets of the four timestamps. -/
theorem mem_timestampFields {k : Nat} {t ref org rec xmt : OptInstant} :
    (k, t) ∈ [(16, ref), (24, org), (32, rec), (40, xmt)] ↔
      k = 16 ∧ t = ref ∨ k = 24 ∧ t = org ∨ k = 32 ∧ t = rec ∨ k = 40 ∧ t = xmt := by
  simp only [List.mem_cons, Prod.mk.injEq, List.not_mem_nil, or_false]

/-- R130: what comes back of a packet is the packet, its timestamps having gone over the wire. -/
theorem readPacket_writePacket (b : Buf48) (p : Packet) :
    readPacket (writePacket b p) =
      { p with
        refTs := fromWire64 (toWire64 p.refTs), orgTs := fromWire64 (toWire64 p.orgTs)
        recTs := fromWire64 (toWire64 p.recTs), xmtTs := fromWire64 (toWire64 p.xmtTs) } := by
  obtain ⟨hhdr, hstratum, hpoll, hprecision, hdelay, hdisp, hid, href, horg, hrec, hxmt⟩ := memRead_writePacket b p
  rw [readPacket, hhdr, hstratum, hpoll, hprecision, hdelay, hdisp, hid, href, horg, hrec, hxmt]

/-- R131: a buffer's own fields, written over any buffer, make the buffer. -/
theorem writePacket_readPacket (a b : Buf48) : writePacket a (readPacket b) = b := by
  rw [writePacket_eq a b]
  simp only [writePacket, readPacket, toWire64_fromWire64, memWrite_memRead]

/-! ### Representable timestamps and packets -/

theorem OptInstant.representable_eq_true (t : OptInstant) : t.representable = true ↔
    (t.present = true → -9487534653230284800 < t.instant.toInt ∧ t.instant.toInt < 2085978496 * 2 ^ 32) := by
  cases h : t.present <;> simp [OptInstant.representable, h, Config.wrapSecond, epochOffsetRaw_eq]

/-- R28: an optional instant equal to a present one is the same record. -/
theorem OptInstant.same_of_present {t u : OptInstant} (ht : t.present = true) : u.same t = true ↔ u = t := by
  have hfields : u.same t = true ↔ u.present = true ∧ u.instant = t.instant := by
    cases hu : u.present <;> simp [OptInstant.same, ht, hu]
  rw [hfields]
  constructor
  · rintro ⟨hp, hi⟩
    exact eq_of_present (hp.trans ht.symm) (congrArg BitVec.toInt hi)
  · rintro rfl
    exact ⟨ht, rfl⟩

/-- R109 (c): exactly the instants strictly inside the wire range come back from the wire as they were. -/
theorem fromWire64_toWire64_eq_self {t : OptInstant} (ht : t.present = true) :
    fromWire64 (toWire64 t) = t ↔
      -9487534653230284800 < t.instant.toInt ∧ t.instant.toInt < 2085978496 * 2 ^ 32 := by
  have hback := fromWire64_toWire64_toInt ht
  constructor
  · intro heq
    have hkept : ¬ (t.instant.toInt = -9487534653230284800 ∨ t.instant.toInt = 8959209420479266816) := by
      rw [← fromWire64_toWire64_absent ht, heq, ht]
      decide
    rw [heq] at hback
    split_ifs at hback <;> omega
  · rintro ⟨hlow, hhigh⟩
    rw [if_neg (by omega), if_pos hhigh] at hback
    have hpresent := fromWire64_toWire64_present ht (by omega) (by omega)
    exact OptInstant.eq_of_present (hpresent.trans ht.symm) hback

/-- R130 for one timestamp. -/
theorem OptInstant.same_overWire (t : OptInstant) :
    (fromWire64 (toWire64 t)).same t = true ↔ t.representable = true := by
  rw [representable_eq_true]
  cases ht : t.present with
  | false =>
    rw [same_eq_of_absent ((fromWire64_absent _).2 (toWire64_absent t ht)), ht]
    simp
  | true =>
    rw [same_of_present ht, fromWire64_toWire64_eq_self ht]
    simp

/-- R131: a field of any value is reported as a representable timestamp. -/
theorem fromWire64_representable (w : WireTs) : (fromWire64 w).representable = true := by
  rw [← OptInstant.same_overWire, toWire64_fromWire64]
  simp [OptInstant.same]

theorem readPacket_representable (b : Buf48) : (readPacket b).representable = true := by
  simp only [Packet.representable, readPacket, fromWire64_representable, Bool.and_self]

/-- R130: the plain fields always come back; the timestamps decide. -/
theorem readPacket_writePacket_same (b : Buf48) (p : Packet) :
    (readPacket (writePacket b p)).same p = true ↔ p.representable = true := by
  rw [readPacket_writePacket]
  simp only [Packet.same, Packet.representable, beq_self_eq_true, Bool.true_and, Bool.and_eq_true,
    OptInstant.same_overWire]

/-! ### ENCODE and DECODE -/

theorem responseOf_decode48 (b : Buf48) : responseOf (.decode 48 b) = some (.ok (.decode (readPacket b))) :=
  responseOf_decode 48 b

/-- Settles O31: the packet that comes back has the plain fields, and each timestamp equals its own exactly when it is
representable. -/
theorem packetRoundTrip : Obligations.PacketRoundTrip := fun p =>
  ⟨_, _, responseOf_encode p, responseOf_decode48 _, (readPacket_writePacket_same _ p).symm⟩

/-- Settles O32: the buffer is what its own fields write, so the fields determine it. -/
theorem bufferRoundTrip : Obligations.BufferRoundTrip := by
  refine ⟨fun b => ⟨_, responseOf_decode48 b, ?_, readPacket_representable b⟩, fun b b' h => ?_⟩
  · rw [responseOf_encode, writePacket_readPacket]
  · rw [responseOf_decode48, responseOf_decode48] at h
    have hpkt : readPacket b = readPacket b' := by simpa using h
    rw [← writePacket_readPacket b b, hpkt, writePacket_readPacket]

/-- R120: the wire timestamp of an absent and of a present instant. -/
theorem toWire64_toNat_ite (t : OptInstant) : ((toWire64 t).toNat : Int) =
    if t.present then (t.instant.toInt + 2208988800 * 2 ^ 32) % 2 ^ 64 else 0 := by
  cases ht : t.present with
  | false => rw [toWire64_absent t ht]; rfl
  | true => exact toWire64_toNat t ht

/-- Settles O27: each field read back is the field written, and R120 gives the value of a timestamp's. -/
theorem encodeLaysOutPacket : Obligations.EncodeLaysOutPacket := by
  refine ⟨decode_op4, fun p s => ⟨writePacket .zero p, respond_next _ s, ?_⟩⟩
  obtain ⟨hhdr, hstratum, hpoll, hprecision, hdelay, hdisp, hid, href, horg, hrec, hxmt⟩ :=
    memRead_writePacket .zero p
  rw [memRead_one] at hhdr hstratum hpoll hprecision
  refine ⟨hhdr, hstratum, hpoll, hprecision, hdelay, hdisp, hid, fun k hk t hfield => ?_⟩
  have hwire : memRead (writePacket .zero p) k 8 hk = toWire64 t := by
    obtain ⟨rfl, rfl⟩ | ⟨rfl, rfl⟩ | ⟨rfl, rfl⟩ | ⟨rfl, rfl⟩ := mem_timestampFields.1 hfield
    · exact href
    · exact horg
    · exact hrec
    · exact hxmt
  rw [hwire, toWire64_toNat_ite]

/-- R126: from 48 up the count is not looked at again. -/
theorem exec_decode_long {len : BitVec 16} (h : 48 ≤ len.toNat) (b : Buf48) (s : State) :
    exec (.decode len b) s = respond (.decode (readPacket b)) s :=
  if_neg (Nat.not_lt.2 h)

/-- Settles O28: the count picks the error or the eleven reads, and a timestamp is absent when its field is zero. -/
theorem decodeParsesPacket : Obligations.DecodeParsesPacket := by
  refine ⟨decode_op5, fun len b s => ⟨fun hshort => exec_decode_short hshort b s, fun hlong =>
    ⟨readPacket b, exec_decode_long hlong b s, memRead_one .., memRead_one .., memRead_one .., memRead_one ..,
      rfl, rfl, rfl, fun k hk t hfield => ?_⟩⟩⟩
  have hread : t = fromWire64 (memRead b k 8 hk) := by
    obtain ⟨rfl, rfl⟩ | ⟨rfl, rfl⟩ | ⟨rfl, rfl⟩ | ⟨rfl, rfl⟩ := mem_timestampFields.1 hfield <;> rfl
  rw [hread, fromWire64_absent]
  exact ⟨fromWire64_toInt _, memRead_eq_zero b k 8 hk⟩

/-- Settles O29: every count from 48 up gives the answer of the long case. -/
theorem longDatagramDecodesFirst48 : Obligations.LongDatagramDecodesFirst48 := by
  intro len b s hlong
  rw [exec_decode_long hlong, exec_decode_long (by decide)]

/-! ### MKREQ -/

/-- R134: MKREQ in any state. -/
theorem exec_mkreq (l v m : Byte) (now : Instant) (s : State) : exec (.mkreq l v m now) s = .next { s with
    rsp := some (if headerInRange l v m then .ok (.mkreq (writeRequest .zero l v m now))
      else .error .invalidArgument) } :=
  respond_or_raiseError _ _ _ s

section

variable (b : Buf48) (l v m : Byte) (now : Instant)

theorem writeRequest_header : (writeRequest b l v m now)[0] = packHeader l v m := by
  rw [writeRequest, memWrite_getElem_out _ _ _ _ _ _ _ (by decide), memClear_getElem, if_neg (by decide),
    ← memRead_one _ 0 (by decide), memRead_memWrite_same]

theorem writeRequest_zero (j : Nat) (hj : j < 48) (hlow : 1 ≤ j) (hhigh : j < 40) :
    (writeRequest b l v m now)[j] = 0 := by
  rw [writeRequest, memWrite_getElem_out _ _ _ _ _ _ _ (.inl hhigh), memClear_getElem, if_pos (by omega)]

theorem memRead_writeRequest_xmt : memRead (writeRequest b l v m now) 40 8 = toWire64 ⟨true, now⟩ :=
  memRead_memWrite_same ..

end

/-- Settles O33: the header byte, the cleared bytes and the transmit timestamp; out of range MKREQ's test fails. -/
theorem mkreqBuildsRequest : Obligations.MkreqBuildsRequest := by
  refine ⟨decode_op8, fun l v m now s => ⟨?_, fun hout => ?_⟩⟩
  · rintro ⟨hl, hv, hm⟩
    have hrange := (headerInRange_eq_true l v m).2 ⟨hl, hv, hm⟩
    refine ⟨writeRequest .zero l v m now, ?_, ?_, writeRequest_zero .zero l v m now, ?_⟩
    · rw [exec_mkreq, if_pos hrange]
    · rw [writeRequest_header, packHeader_toNat hl hv hm]
    · rw [memRead_writeRequest_xmt]
      exact toWire64_toNat _ rfl
  · have hrange : ¬ headerInRange l v m = true := by
      rw [headerInRange_eq_true]
      omega
    rw [exec_mkreq, if_neg hrange]

theorem Instant.inWireRange_eq_true (x : Instant) : x.inWireRange = true ↔
    -9487534653230284800 ≤ x.toInt ∧ x.toInt < 2085978496 * 2 ^ 32 := by
  simp only [Instant.inWireRange, Bool.and_eq_true, decide_eq_true_eq, epochOffsetRaw_eq, Config.wrapSecond]

/-- R135, R109: an instant of the wire range is driven as itself after the wire, at the protocol epoch too. -/
theorem fromWire64_toWire64_instant {x : Instant} (hx : x.inWireRange = true) :
    (fromWire64 (toWire64 ⟨true, x⟩)).instant = x := by
  obtain ⟨hlow, hhigh⟩ := (Instant.inWireRange_eq_true x).1 hx
  have hback := fromWire64_toWire64_toInt (t := ⟨true, x⟩) rfl
  rw [if_neg (not_lt.2 hlow), if_pos hhigh] at hback
  exact BitVec.eq_of_toInt_eq hback

/-- Settles O35: both readers convert the request's transmit field back, the one from its halves, the other from the
echo of its bytes. -/
theorem requestTransmitTimeIsT1 : Obligations.RequestTransmitTimeIsT1 := by
  intro l v m now hl hv hm hnow
  have hrange := (headerInRange_eq_true l v m).2 ⟨hl, hv, hm⟩
  have hxmt := memRead_writeRequest_xmt .zero l v m now
  refine ⟨writeRequest .zero l v m now, ?_, ⟨_, responseOf_fromwire .., ?_⟩, fun reply hecho =>
    ⟨_, responseOf_decode48 reply, ?_⟩⟩
  · rw [responseOf_mkreq, if_pos hrange]
  · rw [wireOf_memRead _ 40, hxmt, fromWire64_toWire64_instant hnow]
  · have horg : memRead reply 24 8 = toWire64 ⟨true, now⟩ :=
      (memRead_eq_of_bytes_eq _ _ 24 40 8 _ _ hecho).trans hxmt
    rw [readPacket, horg, fromWire64_toWire64_instant hnow]

end Sys2Proof.Machine
end

section
/-! PROOFS of the offset calculator family (43_offset_calculator.md): both results are exact (rules R142, R143), which
rests on the bounds of rule R147, and the identities of rule R148 are algebra on the exact results. -/

namespace Sys2Proof.Machine

/-! ### The exact results -/

section

variable (a b c d : Instant)

theorem instant_sub_bounds : -(2 ^ 65 - 1) ≤ a.toInt - b.toInt ∧ a.toInt - b.toInt ≤ 2 ^ 65 - 1 := by
  have ha := instant_toInt_range a
  have hb := instant_toInt_range b
  omega

theorem instant_sub_sub_bounds :
    -(2 ^ 66 - 2) ≤ (d.toInt - a.toInt) - (c.toInt - b.toInt) ∧
      (d.toInt - a.toInt) - (c.toInt - b.toInt) ≤ 2 ^ 66 - 2 := by
  have hda := instant_sub_bounds d a
  have hcb := instant_sub_bounds c b
  omega

theorem instant_sub_add_bounds :
    -(2 ^ 66 - 2) ≤ (b.toInt - a.toInt) + (c.toInt - d.toInt) ∧
      (b.toInt - a.toInt) + (c.toInt - d.toInt) ≤ 2 ^ 66 - 2 := by
  have hba := instant_sub_bounds b a
  have hcd := instant_sub_bounds c d
  omega

/-- R142, R147: `1000 * (2^66 - 2)` is below `2^76`, so the 77 bits hold the delay. -/
theorem delayMillis_toInt :
    (delayMillis a b c d).toInt = ((d.toInt - a.toInt) - (c.toInt - b.toInt)) * 1000 := by
  have hbounds := instant_sub_sub_bounds a b c d
  rw [delayMillis, Config.msPerSecond, BitVec.toInt_ofInt_eq_self (by decide) (by omega) (by omega)]

/-- R143, R147: `500 * (2^66 - 2)` is below `2^76`, so the 77 bits hold the offset. -/
theorem offsetMillis_toInt :
    (offsetMillis a b c d).toInt = ((b.toInt - a.toInt) + (c.toInt - d.toInt)) * 500 := by
  have hbounds := instant_sub_add_bounds a b c d
  rw [offsetMillis, Config.halfMsPerSecond, BitVec.toInt_ofInt_eq_self (by decide) (by omega) (by omega)]

theorem responseOf_delay_present : responseOf (.delay ⟨true, a⟩ ⟨true, b⟩ ⟨true, c⟩ ⟨true, d⟩) =
    some (.ok (.delay (delayMillis a b c d))) := responseOf_delay ..

theorem responseOf_offset_present : responseOf (.offset ⟨true, a⟩ ⟨true, b⟩ ⟨true, c⟩ ⟨true, d⟩) =
    some (.ok (.offset (offsetMillis a b c d))) := responseOf_offset ..

end

/-! ### DELAY and OFFSET -/

section

variable (t1 t2 t3 t4 : OptInstant)

/-- R141: one absent operand is enough to fail the test. -/
theorem allPresent_eq_false : allPresent t1 t2 t3 t4 = false ↔
    t1.present = false ∨ t2.present = false ∨ t3.present = false ∨ t4.present = false := by
  simp only [allPresent, Bool.and_eq_false_iff, or_assoc]

/-- R142: DELAY in any state. -/
theorem exec_delay (s : State) : exec (.delay t1 t2 t3 t4) s = .next { s with
    rsp := some (if allPresent t1 t2 t3 t4 then
      .ok (.delay (delayMillis t1.instant t2.instant t3.instant t4.instant)) else .error .missingTimestamp) } :=
  respond_or_raiseError _ _ _ s

/-- R143: OFFSET in any state. -/
theorem exec_offset (s : State) : exec (.offset t1 t2 t3 t4) s = .next { s with
    rsp := some (if allPresent t1 t2 t3 t4 then
      .ok (.offset (offsetMillis t1.instant t2.instant t3.instant t4.instant)) else .error .missingTimestamp) } :=
  respond_or_raiseError _ _ _ s

end

/-- Settles O37: the presence test picks the exact result or the error. -/
theorem delayComputes : Obligations.DelayComputes := by
  refine ⟨decode_op6, fun t1 t2 t3 t4 s => ⟨fun hpresent => ?_, fun habsent => ?_⟩⟩
  · refine ⟨delayMillis t1.instant t2.instant t3.instant t4.instant, ?_, delayMillis_toInt ..⟩
    rw [exec_delay, if_pos ((allPresent_eq_true ..).2 hpresent)]
  · rw [exec_delay, (allPresent_eq_false ..).2 habsent]
    rfl

/-- Settles O38: the presence test picks the exact result or the error, and twice 500 is 1000. -/
theorem offsetComputes : Obligations.OffsetComputes := by
  refine ⟨decode_op7, fun t1 t2 t3 t4 s => ⟨fun hpresent => ?_, fun habsent => ?_⟩⟩
  · have hexact := offsetMillis_toInt t1.instant t2.instant t3.instant t4.instant
    refine ⟨offsetMillis t1.instant t2.instant t3.instant t4.instant, ?_, hexact, by omega⟩
    rw [exec_offset, if_pos ((allPresent_eq_true ..).2 hpresent)]
  · rw [exec_offset, (allPresent_eq_false ..).2 habsent]
    rfl

/-- Settles O39: the results are the exact multiples of the bounded sums. -/
theorem calculatorBounds : Obligations.CalculatorBounds := by
  intro a b c d
  have hdelay := delayMillis_toInt a b c d
  have hoffset := offsetMillis_toInt a b c d
  have hd := instant_sub_sub_bounds a b c d
  have hs := instant_sub_add_bounds a b c d
  exact ⟨instant_sub_bounds a b, delayMillis a b c d, offsetMillis a b c d, responseOf_delay_present ..,
    responseOf_offset_present .., hd, hs, hdelay, hoffset, by omega, by omega, by decide⟩

/-! ### Identities -/

/-- R142: DELAY depends on the operands through `(T4 - T1) - (T3 - T2)` alone. -/
theorem responseOf_delay_congr {a b c d a' b' c' d' : Instant}
    (h : (d'.toInt - a'.toInt) - (c'.toInt - b'.toInt) = (d.toInt - a.toInt) - (c.toInt - b.toInt)) :
    responseOf (.delay ⟨true, a'⟩ ⟨true, b'⟩ ⟨true, c'⟩ ⟨true, d'⟩) =
      responseOf (.delay ⟨true, a⟩ ⟨true, b⟩ ⟨true, c⟩ ⟨true, d⟩) := by
  have hms : delayMillis a' b' c' d' = delayMillis a b c d := by rw [delayMillis, h, delayMillis]
  rw [responseOf_delay_present, responseOf_delay_present, hms]

/-- R143: OFFSET depends on the operands through `(T2 - T1) + (T3 - T4)` alone. -/
theorem responseOf_offset_congr {a b c d a' b' c' d' : Instant}
    (h : (b'.toInt - a'.toInt) + (c'.toInt - d'.toInt) = (b.toInt - a.toInt) + (c.toInt - d.toInt)) :
    responseOf (.offset ⟨true, a'⟩ ⟨true, b'⟩ ⟨true, c'⟩ ⟨true, d'⟩) =
      responseOf (.offset ⟨true, a⟩ ⟨true, b⟩ ⟨true, c⟩ ⟨true, d⟩) := by
  have hms : offsetMillis a' b' c' d' = offsetMillis a b c d := by rw [offsetMillis, h, offsetMillis]
  rw [responseOf_offset_present, responseOf_offset_present, hms]

/-- R148 (d): in `d * 1000 ± 2 * (s * 500)` one pair of operands cancels. -/
theorem delayMillis_offsetMillis (a b c d : Instant) :
    (delayMillis a b c d).toInt + 2 * (offsetMillis a b c d).toInt = 2000 * (b.toInt - a.toInt) ∧
      (delayMillis a b c d).toInt - 2 * (offsetMillis a b c d).toInt = 2000 * (d.toInt - c.toInt) := by
  rw [delayMillis_toInt, offsetMillis_toInt]
  constructor <;> ring

/-- Settles O40: a shift cancels in DELAY's sum, and in OFFSET's it cancels or counts twice; the last part is
`delayMillis_offsetMillis`. -/
theorem calculatorIdentities : Obligations.CalculatorIdentities := by
  refine ⟨?allShifted, ?localClock, ?serverClock, ?combined⟩
  case allShifted =>
    intro a b c d a' b' c' d' n ha hb hc hd
    exact ⟨responseOf_delay_congr (by omega), responseOf_offset_congr (by omega)⟩
  case localClock =>
    intro a b c d a' d' n ha hd
    refine ⟨responseOf_delay_congr (by omega), _, _, responseOf_offset_present .., responseOf_offset_present .., ?_⟩
    rw [offsetMillis_toInt, offsetMillis_toInt, ha, hd]
    ring
  case serverClock =>
    intro a b c d b' c' n hb hc
    refine ⟨responseOf_delay_congr (by omega), _, _, responseOf_offset_present .., responseOf_offset_present .., ?_⟩
    rw [offsetMillis_toInt, offsetMillis_toInt, hb, hc]
    ring
  case combined =>
    exact fun a b c d => ⟨_, _, responseOf_delay_present .., responseOf_offset_present ..,
      delayMillis_offsetMillis a b c d⟩

end Sys2Proof.Machine
end

section
/-! PROOFS of the exceptions family (60_exceptions.md): each error has exactly its cause (rule R161), at most one
applies to a command (rule R168), and an error leaves no trace in the block (rule R166). -/

namespace Sys2Proof.Machine

/-! ### The error table -/

/-- R161: the error table, one constructor per cause. -/
inductive Raises : Instr → OpError → Prop where
  | pack {l v m : Byte} (h : 3 < l.toNat ∨ 7 < v.toNat ∨ 7 < m.toNat) : Raises (.pack l v m) .invalidArgument
  | mkreq {l v m : Byte} {now : Instant} (h : 3 < l.toNat ∨ 7 < v.toNat ∨ 7 < m.toNat) :
    Raises (.mkreq l v m now) .invalidArgument
  | decode {len : BitVec 16} {b : Buf48} (h : len.toNat < 48) : Raises (.decode len b) .formatError
  | delay {t1 t2 t3 t4 : OptInstant}
    (h : t1.present = false ∨ t2.present = false ∨ t3.present = false ∨ t4.present = false) :
    Raises (.delay t1 t2 t3 t4) .missingTimestamp
  | offset {t1 t2 t3 t4 : OptInstant}
    (h : t1.present = false ∨ t2.present = false ∨ t3.present = false ∨ t4.present = false) :
    Raises (.offset t1 t2 t3 t4) .missingTimestamp
  | reserved {i : Instr} (h : 9 ≤ i.code.toNat) : Raises i .illegalOp

/-- R162: the test of PACK and MKREQ fails by one operand out of range. -/
theorem not_headerInRange (l v m : Byte) :
    ¬ headerInRange l v m = true ↔ 3 < l.toNat ∨ 7 < v.toNat ∨ 7 < m.toNat := by
  rw [headerInRange_eq_true]
  omega

/-- An operation with one test answers only the error of that test, and only when the test fails. -/
theorem ite_response_eq_error {c : Prop} [Decidable c] {x : Result} {e e' : OpError} :
    some (if c then Response.ok x else .error e) = some (.error e') ↔ ¬ c ∧ e = e' := by
  split <;> simp [*]

/-- R62: the seven reserved rows are the ones from code 9 up. -/
theorem responseOf_of_reserved {i : Instr} (h : 9 ≤ i.code.toNat) : responseOf i = some (.error .illegalOp) := by
  cases i with
  | pack | unpack | towire | fromwire | encode | decode | delay | offset | mkreq => simp [Instr.code] at h
  | reserved9 | reserved10 | reserved11 | reserved12 | reserved13 | reserved14 | reserved15 => rfl

theorem responseOf_of_raises {i : Instr} {e : OpError} (h : Raises i e) : responseOf i = some (.error e) := by
  cases h with
  | pack h => rw [responseOf_pack, if_neg ((not_headerInRange ..).2 h)]
  | mkreq h => rw [responseOf_mkreq, if_neg ((not_headerInRange ..).2 h)]
  | decode h => rw [responseOf_decode, if_neg (Nat.not_le.2 h)]
  | delay h =>
    rw [responseOf_delay, (allPresent_eq_false ..).2 h]
    rfl
  | offset h =>
    rw [responseOf_offset, (allPresent_eq_false ..).2 h]
    rfl
  | reserved h => exact responseOf_of_reserved h

theorem raises_of_responseOf {i : Instr} {e : OpError} (h : responseOf i = some (.error e)) : Raises i e := by
  cases i with
  | pack l v m =>
    obtain ⟨hout, rfl⟩ := ite_response_eq_error.1 ((responseOf_pack ..).symm.trans h)
    exact .pack ((not_headerInRange ..).1 hout)
  | mkreq l v m now =>
    obtain ⟨hout, rfl⟩ := ite_response_eq_error.1 ((responseOf_mkreq ..).symm.trans h)
    exact .mkreq ((not_headerInRange ..).1 hout)
  | decode len b =>
    obtain ⟨hshort, rfl⟩ := ite_response_eq_error.1 ((responseOf_decode ..).symm.trans h)
    exact .decode (Nat.not_le.1 hshort)
  | delay t1 t2 t3 t4 =>
    obtain ⟨habsent, rfl⟩ := ite_response_eq_error.1 ((responseOf_delay ..).symm.trans h)
    exact .delay ((allPresent_eq_false ..).1 (Bool.eq_false_of_not_eq_true habsent))
  | offset t1 t2 t3 t4 =>
    obtain ⟨habsent, rfl⟩ := ite_response_eq_error.1 ((responseOf_offset ..).symm.trans h)
    exact .offset ((allPresent_eq_false ..).1 (Bool.eq_false_of_not_eq_true habsent))
  | unpack | towire | fromwire | encode => cases h
  | reserved9 | reserved10 | reserved11 | reserved12 | reserved13 | reserved14 | reserved15 =>
    cases h
    exact .reserved (by decide)

/-- R161: a command is answered with an error exactly when the table says so. -/
theorem responseOf_eq_error {i : Instr} {e : OpError} : responseOf i = some (.error e) ↔ Raises i e :=
  ⟨raises_of_responseOf, responseOf_of_raises⟩

/-- Settles O42: the rows of the error table, error by error. -/
theorem errorCauses : Obligations.ErrorCauses := by
  intro i
  simp only [responseOf_eq_error]
  refine ⟨⟨?_, ?_⟩, ⟨?_, ?_⟩, ⟨?_, ?_⟩, ⟨?_, .reserved⟩⟩
  · intro hraises
    cases hraises with
    | pack h => exact ⟨_, _, _, .inl rfl, h⟩
    | mkreq h => exact ⟨_, _, _, .inr ⟨_, rfl⟩, h⟩
  · rintro ⟨l, v, m, rfl | ⟨now, rfl⟩, h⟩
    · exact .pack h
    · exact .mkreq h
  · intro hraises
    cases hraises with
    | decode h => exact ⟨_, _, rfl, h⟩
  · rintro ⟨len, b, rfl, h⟩
    exact .decode h
  · intro hraises
    cases hraises with
    | delay h => exact ⟨_, _, _, _, .inl rfl, h⟩
    | offset h => exact ⟨_, _, _, _, .inr rfl, h⟩
  · rintro ⟨t1, t2, t3, t4, rfl | rfl, h⟩
    · exact .delay h
    · exact .offset h
  · intro hraises
    cases hraises with
    | reserved h => exact h

/-- Settles O43: the code on `cmd_op` is that of the decoded command, and each row of the error table has one code. -/
theorem errorPriority : Obligations.ErrorPriority := by
  intro c
  rw [← code_decode c]
  refine ⟨responseOf_of_reserved, fun e hlt h => ?_⟩
  generalize decode c = i at hlt h ⊢
  cases responseOf_eq_error.1 h with
  | pack => exact .inl ⟨.inl rfl, rfl⟩
  | mkreq => exact .inl ⟨.inr rfl, rfl⟩
  | decode => exact .inr (.inl ⟨rfl, rfl⟩)
  | delay => exact .inr (.inr ⟨.inl rfl, rfl⟩)
  | offset => exact .inr (.inr ⟨.inr rfl, rfl⟩)
  | reserved hcode => exact absurd hcode (Nat.not_le.2 hlt)

/-! ### After an error -/

/-- R25, R190: the edge at which `rsp_ready` is high drops the presented response without looking at it: `rst` discards
it with the command, and without `rst` it is delivered. -/
theorem step_present {s : State} (r : Response) (hb : s.busy = true) (hready : s.pins.rspReady = true) :
    step (s.present r) = .next (if s.pins.rst then s.toIdle.advance else s.deliver.advance) := by
  obtain ⟨c, hl⟩ := Option.isSome_iff_exists.1 hb
  cases hr : s.pins.rst with
  | true => exact step_rst hr
  | false => exact step_delivers hl ((State.delivers_eq_true _).2 ⟨hr, ⟨r, rfl⟩, hready⟩)

/-- Settles O45: the edge after an answer does not look at the response, and a delivery leaves the idle state. -/
theorem errorLeavesNoTrace : Obligations.ErrorLeavesNoTrace := by
  refine ⟨fun e s => ⟨raiseError_next e s, rfl, rfl, e.code_ne_zero⟩, fun s e x hb hready => ?_,
    fun s e hb hrsp hr hready => ?_⟩
  · exact (step_present _ hb hready).trans (step_present _ hb hready).symm
  · obtain ⟨c, hl⟩ := Option.isSome_iff_exists.1 hb
    have hd := (State.delivers_eq_true s).2 ⟨hr, ⟨_, hrsp⟩, hready⟩
    exact ⟨hd, _, step_delivers hl hd, rfl, rfl, rfl, rfl, fun hr' => (State.cmdReady_eq_true _).2 ⟨rfl, hr'⟩⟩

end Sys2Proof.Machine
end

section
/-! PROOFS of the reset and hazards family (70_reset_and_hazards.md): reset at any edge (rules R190, R191), the block
with a command in flight (rules R200, R202, R210), runs (rule R206), and timestamps past the wrap (rule R203). -/

namespace Sys2Proof.Machine

/-! ### Timestamps past the wrap -/

/-- R203 (b): an instant past the wrap comes back from the wire present, and 2^32 s too early. -/
theorem fromWire64_toWire64_past_wrap {x : Instant} (hx : 2085978496 * 2 ^ 32 < x.toInt) :
    ∃ y : Instant, fromWire64 (toWire64 ⟨true, x⟩) = ⟨true, y⟩ ∧ y.toInt = x.toInt - 2 ^ 64 := by
  have hepoch : -9487534653230284800 < x.toInt := by omega
  have hwrap : 8959209420479266816 < x.toInt := by omega
  have hpresent := fromWire64_toWire64_present (t := ⟨true, x⟩) rfl hepoch.ne' hwrap.ne'
  have hback := fromWire64_toWire64_toInt (t := ⟨true, x⟩) rfl
  rw [if_neg hepoch.not_gt, if_neg hx.not_gt] at hback
  exact ⟨_, congrArg₂ OptInstant.mk hpresent rfl, hback⟩

/-- Settles O41: T2 and T3 both come back 2^64 units low, which cancels in DELAY's sum and counts twice in OFFSET's,
where T1 and T4 moved by the same amount make up for it. -/
theorem eraStraddleShiftsOffset : Obligations.EraStraddleShiftsOffset := by
  intro a b c d a' d' hb hc ha' hd'
  obtain ⟨b', hfromB, hb'⟩ := fromWire64_toWire64_past_wrap hb
  obtain ⟨c', hfromC, hc'⟩ := fromWire64_toWire64_past_wrap hc
  refine ⟨_, _, _, _, ⟨true, b'⟩, ⟨true, c'⟩, offsetMillis a b c d, offsetMillis a b' c' d, responseOf_towire _, ?_,
    responseOf_towire _, ?_, responseOf_delay_congr (by omega), responseOf_offset_present ..,
    responseOf_offset_present .., ?_, ?_⟩
  · rw [responseOf_fromwire_wireHalves, hfromB]
  · rw [responseOf_fromwire_wireHalves, hfromC]
  · rw [offsetMillis_toInt, offsetMillis_toInt, hb', hc']
    ring
  · rw [← responseOf_offset_present]
    exact responseOf_offset_congr (by omega)

/-! ### Reset at any edge -/

theorem not_delivers_of_rst {s : State} (h : s.pins.rst = true) : s.delivers = false := by
  simp [State.delivers, h]

theorem not_accepts_of_rst {s : State} (h : s.pins.rst = true) : s.accepts = false := by
  simp [State.accepts, h]

theorem not_cmdReady_of_rst {s : State} (h : s.pins.rst = true) : s.cmdReady = false := by
  simp [State.cmdReady, h]

/-- Settles O2: `rst` closes both channels, and the edge ends in `toIdle`, in which nothing is held. -/
theorem rstEntersIdle : Obligations.RstEntersIdle := by
  intro s hr
  exact ⟨not_cmdReady_of_rst hr, not_accepts_of_rst hr, not_delivers_of_rst hr, s.toIdle.advance, step_rst hr,
    rfl, rfl, rfl, rfl, rfl, fun hr' => (State.cmdReady_eq_true _).2 ⟨rfl, hr'⟩⟩

/-- Settles O3: `toIdle` keeps of the state only the count and the host's levels, so it forgets whether a command was
held. -/
theorem resetDropsCommand : Obligations.ResetDropsCommand := by
  intro s c n _ hr
  exact ⟨not_delivers_of_rst hr, s.toIdle.advance, step_rst hr, rfl, step_rst hr,
    fun hr' hv => (State.accepts_eq_true _).2 ⟨hr', hv, rfl⟩⟩

/-! ### A command in flight -/

/-- Settles O12: with the latch full no command is accepted, and of the edges left only the delivery empties it. -/
theorem oneCommandInFlight : Obligations.OneCommandInFlight := by
  refine ⟨fun s t _ hb hr h => ?busy, fun s hb hr hv => ?idle⟩
  case idle => exact (State.accepts_eq_true s).2 ⟨hr, hv, (State.busy_eq_false s).1 hb⟩
  case busy =>
    obtain ⟨c, hl⟩ := Option.isSome_iff_exists.1 hb
    have ha := not_accepts_of_latch hl
    have hstays {u : State} (hu : u.busy = true) (hd : s.delivers = false) :
        u.busy = false ↔ s.delivers = true := iff_of_false (by simp [hu]) (by simp [hd])
    refine ⟨ha, ?_⟩
    obtain ⟨hr', -⟩ | ⟨ha', -⟩ | ⟨-, -, hd, rfl⟩ | ⟨_, -, -, hn, -, hexec⟩ | ⟨_, _, -, -, hn, -, rfl⟩ |
      ⟨-, -, hd, -, rfl⟩ := step_cases h
    · simp [hr] at hr'
    · simp [ha] at ha'
    · exact iff_of_true rfl hd
    · obtain ⟨r, -, rfl⟩ := exec_eq_next hexec
      exact hstays hb (not_delivers_of_rsp hn)
    · exact hstays hb (not_delivers_of_rsp hn)
    · exact hstays hb hd

/-- R200: the edge of a block with a command in flight looks at `rst` and `rsp_ready` alone. Two states that differ
in the host's levels only, and not in these two nor in the levels to come, take the same edge. -/
theorem step_eq_of_latch {s : State} {c : CmdPorts} {p q : Pins} {rest : List Pins} (hl : s.latch = some c)
    (hrst : p.rst = q.rst) (hready : p.rspReady = q.rspReady) :
    step { s with inputs := p :: rest } = step { s with inputs := q :: rest } := by
  have ha (ps : List Pins) : State.accepts { s with inputs := ps } = false := not_accepts_of_latch hl
  have hr : (State.pins { s with inputs := p :: rest }).rst = (State.pins { s with inputs := q :: rest }).rst := hrst
  have hd : State.delivers { s with inputs := p :: rest } = State.delivers { s with inputs := q :: rest } := by
    simp [State.delivers, State.pins, State.rspValid, hrst, hready]
  simp only [step, hr, ha, hd]
  rfl

/-- Settles O13: a busy block holds a command, and its edge does not look at the command port. -/
theorem operandsFreeAfterAcceptance : Obligations.OperandsFreeAfterAcceptance := by
  intro s t p q rest hb hrst hready h
  obtain ⟨c, hl⟩ := Option.isSome_iff_exists.1 hb
  exact (step_eq_of_latch hl hrst hready).symm.trans h

/-! ### Runs -/

theorem run_succ {s t : State} (k : Nat) (h : step s = .next t) :
    Host.Core.run core (k + 1) s = Host.Core.run core k t := by
  have hcore : core.step s = .next t := h
  simp only [Host.Core.run, hcore]

/-- Settles O16: a run is safe when each of its edges answers a next state. -/
theorem noEdgeStops : Obligations.NoEdgeStops := by
  refine ⟨exists_step, fun k => ?_⟩
  induction k with
  | zero => exact fun s => ⟨s, rfl⟩
  | succ k ih =>
    intro s
    obtain ⟨t, ht⟩ := exists_step s
    obtain ⟨u, hu⟩ := ih t
    exact ⟨u, (run_succ k ht).trans hu⟩

/-- R210: a command with `w` edges left to wait presents its response after `w` waiting edges and the answering one. -/
theorem run_presents_response {s : State} {c : CmdPorts} (hl : s.latch = some c) (hn : s.rsp = none)
    (hs : s.noReset) :
    ∃ t r, Host.Core.run core (s.wait + 1) s = .next t ∧ t.latch = some c ∧ t.rsp = some r ∧
      responseOf (decode c) = some r := by
  generalize hw : s.wait = w
  induction w generalizing s with
  | zero =>
    obtain ⟨r, hr, hexec⟩ := everyCommandAnswersPurely (decode c)
    have hstep := (step_answers hs.rst_eq_false hl hn hw).trans (hexec _)
    exact ⟨_, r, run_succ 0 hstep, hl, rfl, hr⟩
  | succ w ih =>
    have hstep := step_waits hs.rst_eq_false hl hn hw
    rw [run_succ _ hstep]
    exact ih (s := (s.keepWaiting w).advance) hl hn (hs.step hstep) rfl

/-- Settles O9: the accepting edge clears the response, and the edges left to wait are counted down to the answer. -/
theorem acceptedCommandIsAnswered : Obligations.AcceptedCommandIsAnswered := by
  refine ⟨fun s t ha h => ?_, fun s c hl hn hs => ?_⟩
  · cases (step_accepts ha).symm.trans h
    rfl
  · obtain ⟨t, r, hpresented⟩ := run_presents_response hl hn hs
    exact ⟨s.wait + 1, t, r, le_rfl, hpresented⟩

end Sys2Proof.Machine
end

section
/-! PROOFS of the remaining statements: the reserved operation codes (30_encoding.md rule R62; 92_eei_decisions.md D3)
and the words of the operation table (rules R61, R62). -/

namespace Sys2Proof.Machine

/-! ### The reserved codes -/

/-- R12: the response read off after reset is presented in every state, with the rest of the state unchanged. -/
theorem exec_of_responseOf {i : Instr} {r : Response} (h : responseOf i = some r) (s : State) :
    exec i s = .next { s with rsp := some r } := by
  obtain ⟨r', hr', hexec⟩ := everyCommandAnswersPurely i
  obtain rfl : r' = r := Option.some.inj (hr'.symm.trans h)
  exact hexec s

/-- R62: a command is reserved by its code alone. -/
theorem exec_of_reserved {i : Instr} (h : 9 ≤ i.code.toNat) (s : State) :
    exec i s = .next { s with rsp := some (.error .illegalOp) } :=
  exec_of_responseOf (responseOf_of_reserved h) s

/-- The seven reserved rows have the codes from 9 up. -/
theorem nine_le_code_of_mem_reserved : ∀ i ∈ [Instr.reserved9, .reserved10, .reserved11, .reserved12, .reserved13,
    .reserved14, .reserved15], 9 ≤ i.code.toNat := by
  decide

/-- Settles O44: the decoder keeps the code on `cmd_op`, the code alone makes a command reserved, and an idle block
accepts without looking at the code. -/
theorem reservedCodesAnswerIllegalOp : Obligations.ReservedCodesAnswerIllegalOp := by
  refine ⟨fun c s h => ?port, fun i s hi => ?constructors, fun s _ hr hv hb => ?accepted⟩
  case port => exact exec_of_reserved ((code_decode c).symm ▸ h) s
  case constructors => exact exec_of_reserved (nine_le_code_of_mem_reserved i hi) s
  case accepted => exact oneCommandInFlight.2 s hb hr hv

/-! ### The words of the operation table -/

theorem decodeTableWord_eq_some {nbits w : Nat} {i : Instr} (h : decode (CmdPorts.ofTableWord nbits w) = i) :
    decodeTableWord nbits w = some i :=
  congrArg some h

/-- Settles O48: the low four bits of a word are the code that picks the row, and the row reads low operand ports. -/
theorem tableWordsDecode : Obligations.TableWordsDecode :=
  ⟨decodeTableWord_eq_some (decode_op0 _ rfl), decodeTableWord_eq_some (decode_op1 _ rfl),
    decodeTableWord_eq_some (decode_op2 _ rfl), decodeTableWord_eq_some (decode_op3 _ rfl),
    decodeTableWord_eq_some (decode_op4 _ rfl), decodeTableWord_eq_some (decode_op5 _ rfl),
    decodeTableWord_eq_some (decode_op6 _ rfl), decodeTableWord_eq_some (decode_op7 _ rfl),
    decodeTableWord_eq_some (decode_op8 _ rfl), decodeTableWord_eq_some (decode_op9 _ rfl),
    decodeTableWord_eq_some (decode_op10 _ rfl), decodeTableWord_eq_some (decode_op11 _ rfl),
    decodeTableWord_eq_some (decode_op12 _ rfl), decodeTableWord_eq_some (decode_op13 _ rfl),
    decodeTableWord_eq_some (decode_op14 _ rfl), decodeTableWord_eq_some (decode_op15 _ rfl)⟩

end Sys2Proof.Machine
end
